-- ==== Sys2Proof/Word.lean ====
section
/-!
DEFINITION. The widths of the hardware (spec/00_scope.md R5, R6): every value is an unsigned bit vector.
-/

namespace Sys2Proof

/-- A byte: 8 bits (R6). -/
abbrev Byte := BitVec 8

/-- A 16-bit word: an instruction (R60), `pc` (R13), `I` (R16), a stack entry (R17). -/
abbrev Word := BitVec 16

/-- A nibble: 4 bits (R6). -/
abbrev Nibble := BitVec 4

/-- The 12-bit immediate address NNN (R62). -/
abbrev Addr12 := BitVec 12

/-- The number of a general register, 0 to 15 (R10), or of a key (R26). -/
abbrev Reg := Fin 16

/-- The number of a key of the keypad, 0 to 15 (R26). -/
abbrev Key := Fin 16

end Sys2Proof
end

