-- ==== Sys2Proof/Syntax.lean ====
section
/-!
DEFINITION. The 34 instructions (spec/30_encoding.md R70), one constructor per row of spec/opcode_table.json. The nibble an
instruction ignores (R64, R72) is kept as its last field, so that no bit of an encoding is lost; no meaning reads it.
-/

namespace Sys2Proof

/-- One instruction with its operand fields (R61, R62). -/
inductive Instr where
  /-- `00E0` `CLS` -/
  | cls
  /-- `00EE` `RET` -/
  | ret
  /-- `1NNN` `JP NNN` -/
  | jp (nnn : Addr12)
  /-- `2NNN` `CALL NNN` -/
  | call (nnn : Addr12)
  /-- `3XNN` `SE Vx, NN` -/
  | seImm (x : Reg) (nn : Byte)
  /-- `4XNN` `SNE Vx, NN` -/
  | sneImm (x : Reg) (nn : Byte)
  /-- `5XYn` `SE Vx, Vy`; `n` is ignored (R72) -/
  | seReg (x y : Reg) (n : Nibble)
  /-- `6XNN` `LD Vx, NN` -/
  | ldImm (x : Reg) (nn : Byte)
  /-- `7XNN` `ADD Vx, NN` -/
  | addImm (x : Reg) (nn : Byte)
  /-- `8XY0` `LD Vx, Vy` -/
  | ldReg (x y : Reg)
  /-- `8XY1` `OR Vx, Vy` -/
  | orReg (x y : Reg)
  /-- `8XY2` `AND Vx, Vy` -/
  | andReg (x y : Reg)
  /-- `8XY3` `XOR Vx, Vy` -/
  | xorReg (x y : Reg)
  /-- `8XY4` `ADD Vx, Vy` -/
  | addReg (x y : Reg)
  /-- `8XY5` `SUB Vx, Vy` -/
  | subReg (x y : Reg)
  /-- `8XY6` `SHR Vx`; the Y field is ignored (R64) -/
  | shr (x : Reg) (y : Nibble)
  /-- `8XY7` `SUBN Vx, Vy` -/
  | subnReg (x y : Reg)
  /-- `8XYE` `SHL Vx`; the Y field is ignored (R64) -/
  | shl (x : Reg) (y : Nibble)
  /-- `9XYn` `SNE Vx, Vy`; `n` is ignored (R72) -/
  | sneReg (x y : Reg) (n : Nibble)
  /-- `ANNN` `LD I, NNN` -/
  | ldIndex (nnn : Addr12)
  /-- `BNNN` `JP V0, NNN` -/
  | jpV0 (nnn : Addr12)
  /-- `CXNN` `RND Vx, NN` -/
  | rnd (x : Reg) (nn : Byte)
  /-- `DXYN` `DRW Vx, Vy, N` -/
  | drw (x y : Reg) (n : Nibble)
  /-- `EX9E` `SKP Vx` -/
  | skp (x : Reg)
  /-- `EXA1` `SKNP Vx` -/
  | sknp (x : Reg)
  /-- `FX07` `LD Vx, DT` -/
  | ldVxDt (x : Reg)
  /-- `FX0A` `LD Vx, K` -/
  | ldVxKey (x : Reg)
  /-- `FX15` `LD DT, Vx` -/
  | ldDtVx (x : Reg)
  /-- `FX18` `LD ST, Vx` -/
  | ldStVx (x : Reg)
  /-- `FX1E` `ADD I, Vx` -/
  | addIndex (x : Reg)
  /-- `FX29` `LD F, Vx` -/
  | ldFont (x : Reg)
  /-- `FX33` `LD B, Vx` -/
  | ldBcd (x : Reg)
  /-- `FX55` `LD [I], Vx` -/
  | storeRegs (x : Reg)
  /-- `FX65` `LD Vx, [I]` -/
  | loadRegs (x : Reg)
  deriving DecidableEq, Repr

end Sys2Proof
end

