-- ==== Sys2Proof/WellFormed.lean ====
section
/-!
DEFINITION. The well-formed instructions: the canonical ones, the only ones the assembler syntax of spec/30_encoding.md R74
writes (R72). Field ranges need no check: the types of `Instr` hold them. An instruction that is not well-formed decodes and
runs exactly as the canonical one does (R72), so neither the decoder nor any meaning asks for this check, and no statement
about decoding or running assumes it. Log entry 7.
-/

namespace Sys2Proof

/-- `i` is canonical: the nibble it ignores, if it has one, is 0 (R72, R74). -/
def Instr.wellFormed : Instr → Bool
  | .seReg _ _ n => n == 0
  | .sneReg _ _ n => n == 0
  | .shr _ y => y == 0
  | .shl _ y => y == 0
  | .cls | .ret | .jp _ | .call _ | .seImm _ _ | .sneImm _ _ | .ldImm _ _ | .addImm _ _
  | .ldReg _ _ | .orReg _ _ | .andReg _ _ | .xorReg _ _ | .addReg _ _ | .subReg _ _ | .subnReg _ _
  | .ldIndex _ | .jpV0 _ | .rnd _ _ | .drw _ _ _ | .skp _ | .sknp _ | .ldVxDt _ | .ldVxKey _
  | .ldDtVx _ | .ldStVx _ | .addIndex _ | .ldFont _ | .ldBcd _ | .storeRegs _ | .loadRegs _ => true

end Sys2Proof
end

