-- ==== Sys2Proof/Decode.lean ====
section
/-!
DEFINITION. The decoder (spec/30_encoding.md R62, R65 to R69, R71), the encoder (R61, R70), the opcode list of R70 as rows of
match and mask, and the table word the host asks about. `decode` is total: a word without a handler is refused under the name
of the secondary table that has no entry for it.
-/

namespace Sys2Proof

/-! ### Fields (R62) -/

/-- P, the primary selector, bits 15 to 12. -/
def fieldP (w : Word) : Nibble := w.extractLsb' 12 4

/-- X, bits 11 to 8, a register number. -/
def fieldX (w : Word) : Reg := (w.extractLsb' 8 4).toFin

/-- The nibble of bits 7 to 4 as bits (it is ignored by `SHR` and `SHL`, R64). -/
def fieldYBits (w : Word) : Nibble := w.extractLsb' 4 4

/-- Y, bits 7 to 4, a register number. -/
def fieldY (w : Word) : Reg := (fieldYBits w).toFin

/-- N, bits 3 to 0. -/
def fieldN (w : Word) : Nibble := w.extractLsb' 0 4

/-- NN, bits 7 to 0. -/
def fieldNN (w : Word) : Byte := w.extractLsb' 0 8

/-- NNN, bits 11 to 0. -/
def fieldNNN (w : Word) : Addr12 := w.extractLsb' 0 12

/-! ### The decoder -/

/-- Why a word (or a list of bytes) is no instruction: the secondary table without an entry for it (R71), or too few bytes. -/
inductive DecodeError where
  /-- `0x0NNN` other than `00E0` and `00EE` (R66). -/
  | noHandler0
  /-- `8XYn` with `n` in 8 to D or F (R67). -/
  | noHandler8
  /-- `EXnn` with `nn` not 9E or A1 (R68). -/
  | noHandlerE
  /-- `FXnn` with `nn` not one of the nine of R69. -/
  | noHandlerF
  /-- Fewer than the two bytes of an instruction (R60). -/
  | truncated
  deriving DecidableEq, Repr

/-- Secondary table 0: the selector is the whole word (R66). -/
def decode0 (w : Word) : Except DecodeError Instr :=
  if w = 0x00E0#16 then .ok .cls
  else if w = 0x00EE#16 then .ok .ret
  else .error .noHandler0

/-- Secondary table 8: the selector is the bottom nibble (R67). -/
def decode8 (w : Word) : Except DecodeError Instr :=
  match fieldN w with
  | 0x0#4 => .ok (.ldReg (fieldX w) (fieldY w))
  | 0x1#4 => .ok (.orReg (fieldX w) (fieldY w))
  | 0x2#4 => .ok (.andReg (fieldX w) (fieldY w))
  | 0x3#4 => .ok (.xorReg (fieldX w) (fieldY w))
  | 0x4#4 => .ok (.addReg (fieldX w) (fieldY w))
  | 0x5#4 => .ok (.subReg (fieldX w) (fieldY w))
  | 0x6#4 => .ok (.shr (fieldX w) (fieldYBits w))
  | 0x7#4 => .ok (.subnReg (fieldX w) (fieldY w))
  | 0xE#4 => .ok (.shl (fieldX w) (fieldYBits w))
  | _ => .error .noHandler8

/-- Secondary table E: the selector is the bottom byte (R68). -/
def decodeE (w : Word) : Except DecodeError Instr :=
  match fieldNN w with
  | 0x9E#8 => .ok (.skp (fieldX w))
  | 0xA1#8 => .ok (.sknp (fieldX w))
  | _ => .error .noHandlerE

/-- Secondary table F: the selector is the bottom byte (R69). -/
def decodeF (w : Word) : Except DecodeError Instr :=
  match fieldNN w with
  | 0x07#8 => .ok (.ldVxDt (fieldX w))
  | 0x0A#8 => .ok (.ldVxKey (fieldX w))
  | 0x15#8 => .ok (.ldDtVx (fieldX w))
  | 0x18#8 => .ok (.ldStVx (fieldX w))
  | 0x1E#8 => .ok (.addIndex (fieldX w))
  | 0x29#8 => .ok (.ldFont (fieldX w))
  | 0x33#8 => .ok (.ldBcd (fieldX w))
  | 0x55#8 => .ok (.storeRegs (fieldX w))
  | 0x65#8 => .ok (.loadRegs (fieldX w))
  | _ => .error .noHandlerF

/-- The primary dispatch on the top nibble (R65). The low nibble of `5XY_` and `9XY_` takes no part in it (R72). -/
def decode (w : Word) : Except DecodeError Instr :=
  match fieldP w with
  | 0x0#4 => decode0 w
  | 0x1#4 => .ok (.jp (fieldNNN w))
  | 0x2#4 => .ok (.call (fieldNNN w))
  | 0x3#4 => .ok (.seImm (fieldX w) (fieldNN w))
  | 0x4#4 => .ok (.sneImm (fieldX w) (fieldNN w))
  | 0x5#4 => .ok (.seReg (fieldX w) (fieldY w) (fieldN w))
  | 0x6#4 => .ok (.ldImm (fieldX w) (fieldNN w))
  | 0x7#4 => .ok (.addImm (fieldX w) (fieldNN w))
  | 0x8#4 => decode8 w
  | 0x9#4 => .ok (.sneReg (fieldX w) (fieldY w) (fieldN w))
  | 0xA#4 => .ok (.ldIndex (fieldNNN w))
  | 0xB#4 => .ok (.jpV0 (fieldNNN w))
  | 0xC#4 => .ok (.rnd (fieldX w) (fieldNN w))
  | 0xD#4 => .ok (.drw (fieldX w) (fieldY w) (fieldN w))
  | 0xE#4 => decodeE w
  -- the sixteenth entry, 0xF
  | _ => decodeF w

/-- Two bytes as a word, the byte at the lower address first (R43). -/
def wordOfBytes (hi lo : Byte) : Word := hi ++ lo

/-- The byte of a word that lies at the lower address (R43). -/
def highByte (w : Word) : Byte := w.extractLsb' 8 8

/-- The byte of a word that lies at the higher address (R43). -/
def lowByte (w : Word) : Byte := w.extractLsb' 0 8

/-- Decoding from memory order: the instruction at the head of a list of bytes, and the bytes after it (R43, R60). -/
def decodeBytes : List Byte → Except DecodeError (Instr × List Byte)
  | hi :: lo :: rest => (decode (wordOfBytes hi lo)).map (fun i => (i, rest))
  | _ => .error .truncated

/-! ### The encoder -/

/-- A register number as the four bits of an X or Y field. -/
def regBits (r : Reg) : Nibble := BitVec.ofFin r

/-- The word of an instruction, written from the formats of R61 and the patterns of R70. -/
def encode : Instr → Word
  | .cls => 0x00E0#16
  | .ret => 0x00EE#16
  | .jp nnn => 0x1#4 ++ nnn
  | .call nnn => 0x2#4 ++ nnn
  | .seImm x nn => 0x3#4 ++ regBits x ++ nn
  | .sneImm x nn => 0x4#4 ++ regBits x ++ nn
  | .seReg x y n => 0x5#4 ++ regBits x ++ regBits y ++ n
  | .ldImm x nn => 0x6#4 ++ regBits x ++ nn
  | .addImm x nn => 0x7#4 ++ regBits x ++ nn
  | .ldReg x y => 0x8#4 ++ regBits x ++ regBits y ++ 0x0#4
  | .orReg x y => 0x8#4 ++ regBits x ++ regBits y ++ 0x1#4
  | .andReg x y => 0x8#4 ++ regBits x ++ regBits y ++ 0x2#4
  | .xorReg x y => 0x8#4 ++ regBits x ++ regBits y ++ 0x3#4
  | .addReg x y => 0x8#4 ++ regBits x ++ regBits y ++ 0x4#4
  | .subReg x y => 0x8#4 ++ regBits x ++ regBits y ++ 0x5#4
  | .shr x y => 0x8#4 ++ regBits x ++ y ++ 0x6#4
  | .subnReg x y => 0x8#4 ++ regBits x ++ regBits y ++ 0x7#4
  | .shl x y => 0x8#4 ++ regBits x ++ y ++ 0xE#4
  | .sneReg x y n => 0x9#4 ++ regBits x ++ regBits y ++ n
  | .ldIndex nnn => 0xA#4 ++ nnn
  | .jpV0 nnn => 0xB#4 ++ nnn
  | .rnd x nn => 0xC#4 ++ regBits x ++ nn
  | .drw x y n => 0xD#4 ++ regBits x ++ regBits y ++ n
  | .skp x => 0xE#4 ++ regBits x ++ 0x9E#8
  | .sknp x => 0xE#4 ++ regBits x ++ 0xA1#8
  | .ldVxDt x => 0xF#4 ++ regBits x ++ 0x07#8
  | .ldVxKey x => 0xF#4 ++ regBits x ++ 0x0A#8
  | .ldDtVx x => 0xF#4 ++ regBits x ++ 0x15#8
  | .ldStVx x => 0xF#4 ++ regBits x ++ 0x18#8
  | .addIndex x => 0xF#4 ++ regBits x ++ 0x1E#8
  | .ldFont x => 0xF#4 ++ regBits x ++ 0x29#8
  | .ldBcd x => 0xF#4 ++ regBits x ++ 0x33#8
  | .storeRegs x => 0xF#4 ++ regBits x ++ 0x55#8
  | .loadRegs x => 0xF#4 ++ regBits x ++ 0x65#8

/-- The bytes of an instruction in memory order, high byte first (R43, R60). -/
def encodeBytes (i : Instr) : List Byte := [highByte (encode i), lowByte (encode i)]

/-! ### The opcode list (R70) -/

/-- The mnemonic of an instruction's row in spec/opcode_table.json. -/
def Instr.mnemonic : Instr → String
  | .cls => "CLS"
  | .ret => "RET"
  | .jp _ => "JP_NNN"
  | .call _ => "CALL_NNN"
  | .seImm _ _ => "SE_Vx__NN"
  | .sneImm _ _ => "SNE_Vx__NN"
  | .seReg _ _ _ => "SE_Vx__Vy"
  | .ldImm _ _ => "LD_Vx__NN"
  | .addImm _ _ => "ADD_Vx__NN"
  | .ldReg _ _ => "LD_Vx__Vy"
  | .orReg _ _ => "OR_Vx__Vy"
  | .andReg _ _ => "AND_Vx__Vy"
  | .xorReg _ _ => "XOR_Vx__Vy"
  | .addReg _ _ => "ADD_Vx__Vy"
  | .subReg _ _ => "SUB_Vx__Vy"
  | .shr _ _ => "SHR_Vx"
  | .subnReg _ _ => "SUBN_Vx__Vy"
  | .shl _ _ => "SHL_Vx"
  | .sneReg _ _ _ => "SNE_Vx__Vy"
  | .ldIndex _ => "LD_I__NNN"
  | .jpV0 _ => "JP_V0__NNN"
  | .rnd _ _ => "RND_Vx__NN"
  | .drw _ _ _ => "DRW_Vx__Vy__N"
  | .skp _ => "SKP_Vx"
  | .sknp _ => "SKNP_Vx"
  | .ldVxDt _ => "LD_Vx__DT"
  | .ldVxKey _ => "LD_Vx__K"
  | .ldDtVx _ => "LD_DT__Vx"
  | .ldStVx _ => "LD_ST__Vx"
  | .addIndex _ => "ADD_I__Vx"
  | .ldFont _ => "LD_F__Vx"
  | .ldBcd _ => "LD_B__Vx"
  | .storeRegs _ => "LD__I___Vx"
  | .loadRegs _ => "LD_Vx___I"

/-- One row of the opcode list: a word selects it when the word masked equals the pattern. -/
structure OpcodeRow where
  mnemonic : String
  pattern : Word
  mask : Word
  deriving DecidableEq, Repr

/-- `w & mask = match` (R70). -/
def OpcodeRow.selects (r : OpcodeRow) (w : Word) : Bool := w &&& r.mask == r.pattern

/-- The 34 rows of R70, in the table's order. -/
def opcodeTable : List OpcodeRow :=
  [⟨"CLS", 0x00E0#16, 0xFFFF#16⟩, ⟨"RET", 0x00EE#16, 0xFFFF#16⟩,
   ⟨"JP_NNN", 0x1000#16, 0xF000#16⟩, ⟨"CALL_NNN", 0x2000#16, 0xF000#16⟩,
   ⟨"SE_Vx__NN", 0x3000#16, 0xF000#16⟩, ⟨"SNE_Vx__NN", 0x4000#16, 0xF000#16⟩,
   ⟨"SE_Vx__Vy", 0x5000#16, 0xF000#16⟩, ⟨"LD_Vx__NN", 0x6000#16, 0xF000#16⟩,
   ⟨"ADD_Vx__NN", 0x7000#16, 0xF000#16⟩]
  ++
  [⟨"LD_Vx__Vy", 0x8000#16, 0xF00F#16⟩, ⟨"OR_Vx__Vy", 0x8001#16, 0xF00F#16⟩,
   ⟨"AND_Vx__Vy", 0x8002#16, 0xF00F#16⟩, ⟨"XOR_Vx__Vy", 0x8003#16, 0xF00F#16⟩,
   ⟨"ADD_Vx__Vy", 0x8004#16, 0xF00F#16⟩, ⟨"SUB_Vx__Vy", 0x8005#16, 0xF00F#16⟩,
   ⟨"SHR_Vx", 0x8006#16, 0xF00F#16⟩, ⟨"SUBN_Vx__Vy", 0x8007#16, 0xF00F#16⟩,
   ⟨"SHL_Vx", 0x800E#16, 0xF00F#16⟩]
  ++
  [⟨"SNE_Vx__Vy", 0x9000#16, 0xF000#16⟩, ⟨"LD_I__NNN", 0xA000#16, 0xF000#16⟩,
   ⟨"JP_V0__NNN", 0xB000#16, 0xF000#16⟩, ⟨"RND_Vx__NN", 0xC000#16, 0xF000#16⟩,
   ⟨"DRW_Vx__Vy__N", 0xD000#16, 0xF000#16⟩, ⟨"SKP_Vx", 0xE09E#16, 0xF0FF#16⟩,
   ⟨"SKNP_Vx", 0xE0A1#16, 0xF0FF#16⟩]
  ++
  [⟨"LD_Vx__DT", 0xF007#16, 0xF0FF#16⟩, ⟨"LD_Vx__K", 0xF00A#16, 0xF0FF#16⟩,
   ⟨"LD_DT__Vx", 0xF015#16, 0xF0FF#16⟩, ⟨"LD_ST__Vx", 0xF018#16, 0xF0FF#16⟩,
   ⟨"ADD_I__Vx", 0xF01E#16, 0xF0FF#16⟩, ⟨"LD_F__Vx", 0xF029#16, 0xF0FF#16⟩,
   ⟨"LD_B__Vx", 0xF033#16, 0xF0FF#16⟩, ⟨"LD__I___Vx", 0xF055#16, 0xF0FF#16⟩,
   ⟨"LD_Vx___I", 0xF065#16, 0xF0FF#16⟩]

/-! ### The host's question about a row -/

/-- The 16-bit word of an instruction whose table bits are `w`: bit 0 of `w` is bit 0 of the one word, and every bit above
`nbits` is 0. -/
def tableWord (nbits w : Nat) : Word := BitVec.ofNat 16 (w % 2 ^ nbits)

/-- The instruction the decoder reads from that word, laid out in memory order (R43). -/
def decodeTableWord (nbits w : Nat) : Option Instr :=
  match decodeBytes [highByte (tableWord nbits w), lowByte (tableWord nbits w)] with
  | .ok (i, _) => some i
  | .error _ => none

end Sys2Proof
end

