-- ==== Sys2Proof/Config.lean ====
section
/-!
DEFINITION. The free values of the model: what the spec calls an input of the step or an unspecified value under no law
(spec/00_scope.md R8, `draw_N`). None has a body, so no proof can use a particular value. Each is applied to the number of
values drawn so far (`State.draws`), so that every use may give a different value. Log entry 5.
-/

namespace Sys2Proof

/-- The random byte `rnd` that `RND` consumes: any of the 256 values, a new one at each use (R123, R186, D19). -/
opaque Config.freeByte : Nat → Byte

/-- The one-bit outcome of `SKP` and `SKNP` when V[X] is above 15: either (R105, R106, D12). -/
opaque Config.freeSkip : Nat → Bool

/-- The 16-bit value `LD F, Vx` leaves in `I` when V[X] is above 15: any (R132, D11). -/
opaque Config.freeIndex : Nat → Word

end Sys2Proof
end

