-- ==== Sys2Proof/Machine/Font.lean ====
section
/-!
DEFINITION. The font configuration FONT_BASE and FONT_DATA (spec/00_scope.md R5, spec/10_state.md R29, R30, D13): parameters of
the hardware that Reset takes as its input (R180). The model holds them in State, so that a statement about every state is a
statement about every font. Log entry 2.
-/

namespace Sys2Proof.Machine

/-- FONT_BASE, with FONT_BASE + 80 at most 0x200 by its type, and the 80 bytes of FONT_DATA (R5). -/
structure Font where
  base : Fin 433
  glyphs : Vector Byte 80
  deriving DecidableEq, Repr

/-- The default FONT_DATA of R30, glyph by glyph from digit 0 to digit F. -/
def defaultGlyphs : Vector Byte 80 :=
  #v[0xF0, 0x90, 0x90, 0x90, 0xF0,  0x20, 0x60, 0x20, 0x20, 0x70,
     0xF0, 0x10, 0xF0, 0x80, 0xF0,  0xF0, 0x10, 0xF0, 0x10, 0xF0,
     0x90, 0x90, 0xF0, 0x10, 0x10,  0xF0, 0x80, 0xF0, 0x10, 0xF0,
     0xF0, 0x80, 0xF0, 0x90, 0xF0,  0xF0, 0x10, 0x20, 0x40, 0x40,
     0xF0, 0x90, 0xF0, 0x90, 0xF0,  0xF0, 0x90, 0xF0, 0x10, 0xF0,
     0xF0, 0x90, 0xF0, 0x90, 0x90,  0xE0, 0x90, 0xE0, 0x90, 0xE0,
     0xF0, 0x80, 0x80, 0x80, 0xF0,  0xE0, 0x90, 0x90, 0x90, 0xE0,
     0xF0, 0x80, 0xF0, 0x80, 0xF0,  0xF0, 0x80, 0xF0, 0x80, 0x80]

/-- The spec's default font: FONT_BASE 0x000 and the table of R30 (D13). -/
def defaultFont : Font := { base := 0, glyphs := defaultGlyphs }

/-- FONT_BASE + 5 * d, the address of the glyph of digit `d` (R29, R132). -/
def Font.glyphAddress (f : Font) (d : Nat) : Word := BitVec.ofNat 16 (f.base.val + 5 * d)

end Sys2Proof.Machine
end

