-- ==== Sys2Proof/Machine/State.lean ====
section
/-!
DEFINITION. The state of the machine (spec/10_state.md), the events of the host (spec/60_exceptions.md R180), the outputs of
an event (R88, R160, R181), the reasons a step can stop, and the state after Reset (spec/70_reset_and_hazards.md R190).
State is plain data. Its last five fields are the model's own: what the spec gives the step as an input or takes from it as an
output (R32) stands here, because a step is a function of State alone (log entries 1 to 5).
-/

namespace Sys2Proof.Machine

/-- The memory array `mem` (R27, R40): the cells that differ from the reset content, by strictly rising address
(`Memory.wf` in Machine/Ops.lean). An address not listed reads as Reset left it (`Memory.unlisted`, log entry 8). -/
abbrev Memory := List Host.Cell

/-- The framebuffer (R25): `fb[y][x]`, 32 rows of 64 cells, `true` for on. -/
abbrev Framebuffer := Vector (Vector Bool 64) 32

/-- The run state (R21). The spec gives the values no numbers. -/
inductive RunState where
  | running
  | paused
  | halted
  deriving DecidableEq, Repr

/-- What a Cycle event reports (R88, R160): a condition with the address the instruction was fetched from, the word fetched
(absent for a fetch out of range) and, for `MemRange`, the first address out of range (R165). -/
inductive Report where
  | none
  | undecodable (iaddr word : Word)
  | stackOverflow (iaddr word : Word)
  | stackUnderflow (iaddr word : Word)
  | memRange (iaddr : Word) (word : Option Word) (maddr : Word)
  deriving DecidableEq, Repr

/-- What a LoadImage event reports (R181): loaded, an image of more than 3584 bytes, or a source that could not be read. -/
inductive LoadResult where
  | ok
  | sizeExceeded
  | readFailure
  deriving DecidableEq, Repr

/-- The output of one event (R180, column "output"). -/
inductive Output where
  /-- An event without an output: Reset, Tick, KeySet, DirtyClear, SetRunState. -/
  | silent
  /-- The report of a Cycle event. -/
  | report (r : Report)
  /-- The result of a LoadImage event. -/
  | load (r : LoadResult)
  deriving DecidableEq, Repr

/-- The seven events by which the host acts on the core (R180). The input `rnd` of Cycle is no argument here: it is a free
value (`Config.freeByte`, R186). -/
inductive HostEvent where
  /-- `Reset()` with its input FONT_BASE and FONT_DATA (R190). -/
  | reset (font : Font)
  /-- `LoadImage(bytes)` (R181); `none` stands for a source that could not be read. -/
  | loadImage (source : Option (List Byte))
  /-- `Cycle(rnd)` (R87). -/
  | cycle
  /-- `Tick()` (R172). -/
  | tick
  /-- `KeySet(k, down)` (R183). -/
  | keySet (k : Key) (down : Bool)
  /-- `DirtyClear()` (R182). -/
  | dirtyClear
  /-- `SetRunState(s)` (R175). -/
  | setRunState (r : RunState)
  deriving DecidableEq, Repr

/-- The machine's state. -/
structure State where
  /-- `V[0]` to `V[15]` (R10). -/
  v : Vector Byte 16
  /-- The program counter (R13). -/
  pc : Word
  /-- The index register `I` (R16). -/
  index : Word
  /-- The call stack (R17). -/
  stack : Vector Word 16
  /-- The stack pointer, 0 to 16, the next free slot (R18). -/
  sp : Fin 17
  /-- The delay timer `DT` (R19). -/
  dt : Byte
  /-- The sound timer `ST` (R20). -/
  st : Byte
  /-- `run_state` (R21). -/
  runState : RunState
  /-- `dirty` (R22). -/
  dirty : Bool
  /-- `opcode`, the word fetched last (R23). -/
  opcode : Word
  /-- The framebuffer (R25). -/
  fb : Framebuffer
  /-- The 16 key-down flags (R26). -/
  key : Vector Bool 16
  /-- The memory array (R27). -/
  mem : Memory
  /-- The model's own: FONT_BASE and FONT_DATA as the latest Reset took them (R32 (c), log entry 2). -/
  font : Font
  /-- The model's own: the output of the latest event (R32 (d), R88, log entry 3). -/
  out : Output
  /-- The model's own: the events the host issues next, oldest first; after them it issues cycles (R180, R185, log entry 1). -/
  schedule : List HostEvent
  /-- The model's own: no Cycle event has come since the latest Reset, so LoadImage is still admitted (R195, log entry 4). -/
  booting : Bool
  /-- The model's own: how many free values have been drawn (R8, log entry 5). -/
  draws : Nat
  deriving DecidableEq, Repr

/-- Why the machine stops with a fault: NO REASON. Every condition the spec gives this hardware has an entry the spec
describes (R160 to R170: a fatal one leaves the run state Halted), so it is a next state, and nothing raises a fault. Safe:
no behaviour is lost. Log entry 9. -/
inductive Fault : Type
  deriving DecidableEq, Repr

/-- Why the model gives no next state. -/
inductive Refusal where
  /-- An instruction without a meaning in this model; raised only by an arm of `exec` that rejects its instruction by name
  (none does). Safe: nothing can be proved of what it does. -/
  | notModelled (mnemonic : String)
  /-- A LoadImage event after the first Cycle event since Reset; raised by `deliver`. The spec admits no such event (R195,
  D23). Safe: nothing can be proved of a host that rewrites memory under a running program. Log entry 4. -/
  | lateLoad
  deriving DecidableEq, Repr

/-- The state right after Reset with the spec's default font and nothing scheduled (R190). Memory lists nothing: every
address reads as zero or as its font byte. -/
def State.reset : State where
  v := Vector.replicate 16 0x00#8
  pc := 0x0200#16
  index := 0x0000#16
  stack := Vector.replicate 16 0x0000#16
  sp := 0
  dt := 0x00#8
  st := 0x00#8
  runState := .running
  dirty := false
  opcode := 0x0000#16
  fb := Vector.replicate 32 (Vector.replicate 64 false)
  key := Vector.replicate 16 false
  mem := []
  font := defaultFont
  out := .silent
  schedule := []
  booting := true
  draws := 0

end Sys2Proof.Machine
end

