-- ==== Sys2Proof/Machine/Ops.lean ====
section
/-!
DEFINITION. The named operations over memory, registers and the control state, and the entry of every error condition
(spec/10_state.md, spec/20_memory.md, spec/60_exceptions.md R160 to R171). Meanings are written over these.
-/

namespace Sys2Proof.Machine

/-! ### Memory (R27, R40 to R43) -/

/-- What an address that is not listed reads as: what Reset put there, a font byte at FONT_BASE to FONT_BASE + 79 and 0x00
elsewhere (R27, R29, R190). -/
def Memory.unlisted (f : Font) (a : Nat) : Byte :=
  if h : f.base.val ≤ a ∧ a - f.base.val < 80 then f.glyphs[a - f.base.val]'h.2 else 0x00#8

/-- The byte listed for an address, if there is one. -/
def Memory.lookup (a : Nat) : Memory → Option Byte
  | [] => none
  | (k, b) :: m => if k = a then some b else Memory.lookup a m

/-- `mem[a]` (R41). The range is the caller's check (R54): above 0xFFF there is no storage and no meaning reads there. -/
def Memory.read (f : Font) (m : Memory) (a : Nat) : Byte := (Memory.lookup a m).getD (Memory.unlisted f a)

/-- The list with the byte of one address entered at its place. -/
def Memory.insert (a : Nat) (b : Byte) : Memory → Memory
  | [] => [(a, b)]
  | (k, c) :: m =>
    if a < k then (a, b) :: (k, c) :: m
    else if a = k then (a, b) :: m
    else (k, c) :: Memory.insert a b m

/-- The list without any entry for one address. -/
def Memory.remove (a : Nat) (m : Memory) : Memory := m.filter (fun c => c.1 != a)

/-- `mem[a] <- b` (R42), in canonical form: writing what an unlisted address reads as removes the entry. Above 0xFFF there is
no byte to write (R40). -/
def Memory.write (f : Font) (a : Nat) (b : Byte) (m : Memory) : Memory :=
  if a < 4096 then
    if b = Memory.unlisted f a then Memory.remove a m else Memory.insert a b m
  else m

/-- The canonical form: addresses strictly rising and below 4096, and no entry equal to what an unlisted address reads as. -/
def Memory.wf (f : Font) : Memory → Bool
  | [] => true
  | (a, b) :: m =>
    decide (a < 4096) && (b != Memory.unlisted f a) && m.all (fun c => decide (a < c.1)) && Memory.wf f m

/-- The byte of memory at an address. -/
def State.byteAt (s : State) (a : Nat) : Byte := Memory.read s.font s.mem a

/-- `MemRead(a, 2)`: the byte at the lower address is the high one (R41, R43). -/
def State.wordAt (s : State) (a : Nat) : Word := wordOfBytes (s.byteAt a) (s.byteAt (a + 1))

/-- `MemWrite(a, 1, b)` (R42). -/
def State.writeByte (a : Nat) (b : Byte) (s : State) : State := { s with mem := Memory.write s.font a b s.mem }

/-- Bytes at consecutive addresses from `a` on, one at a time, in ascending order (R46). -/
def State.writeBytes (a : Nat) : List Byte → State → State
  | [], s => s
  | b :: bs, s => State.writeBytes (a + 1) bs (s.writeByte a b)

/-! ### Registers (R10, R11) -/

/-- `V[x]`. -/
def State.reg (s : State) (x : Reg) : Byte := s.v[x]

/-- `V[x] <- b`. -/
def State.setReg (x : Reg) (b : Byte) (s : State) : State := { s with v := s.v.set x.val b x.isLt }

/-- `VF`, the register the flag is written to (R12). -/
def flagReg : Reg := 15

/-- `pc <- a` (R13). -/
def State.setPc (a : Word) (s : State) : State := { s with pc := a }

/-- `I <- a` (R16). -/
def State.setIndex (a : Word) (s : State) : State := { s with index := a }

/-- `DT <- b` (R19). -/
def State.setDt (b : Byte) (s : State) : State := { s with dt := b }

/-- `ST <- b` (R20). -/
def State.setSt (b : Byte) (s : State) : State := { s with st := b }

/-- `key[k]` (R26). -/
def State.keyDown (s : State) (k : Key) : Bool := s.key[k]

/-- `if c: pc <- pc + 2`, what every conditional skip does (R100). -/
def State.skipIf (c : Bool) (s : State) : State := if c then s.setPc (s.pc + 2#16) else s

/-- One free value has been drawn (R8). -/
def State.drawn (s : State) : State := { s with draws := s.draws + 1 }

/-- `fb[y][x]` (R25). -/
def Framebuffer.cell (fb : Framebuffer) (y : Fin 32) (x : Fin 64) : Bool := fb[y][x]

/-- `fb[y][x] <- b`. -/
def Framebuffer.setCell (fb : Framebuffer) (y : Fin 32) (x : Fin 64) (b : Bool) : Framebuffer :=
  fb.set y.val (fb[y].set x.val b x.isLt) y.isLt

/-- Every cell off. -/
def Framebuffer.blank : Framebuffer := Vector.replicate 32 (Vector.replicate 64 false)

/-- `fb[y][x]` of the machine. -/
def State.pixel (s : State) (y : Fin 32) (x : Fin 64) : Bool := Framebuffer.cell s.fb y x

/-! ### The call stack (R17, R18) -/

/-- `stack[sp] <- pc`, `sp <- sp + 1`, for a stack that is not full. -/
def State.push (s : State) (h : s.sp.val < 16) : State :=
  { s with stack := s.stack.set s.sp.val s.pc h, sp := ⟨s.sp.val + 1, Nat.succ_lt_succ h⟩ }

/-- `sp <- sp - 1`, `pc <- stack[sp]`, for a stack that is not empty; the popped entry stays (R17). -/
def State.pop (s : State) (h : s.sp.val ≠ 0) : State :=
  { s with
    sp := ⟨s.sp.val - 1, Nat.lt_of_le_of_lt (Nat.sub_le _ _) s.sp.isLt⟩
    pc := s.stack[s.sp.val - 1]'(Nat.sub_one_lt_of_le (Nat.pos_of_ne_zero h) (Nat.le_of_lt_succ s.sp.isLt)) }

/-! ### The error conditions (R160 to R171)

The hardware has no vector, no handler and no saved register: taking a fatal condition halts the machine and outputs the
report; a non-fatal one outputs the report and execution goes on. There is no return from a condition: Halted is left only
by Reset (R171). While a handler runs `pc` is `a + 2` and `opcode` is the word fetched from `a` (R83), so a report's `iaddr`
is `pc - 2` and its `word` is `opcode` (log entry 10). -/

/-- Taking a fatal condition (R169): nothing is saved, control goes nowhere, the handler has written nothing. -/
def State.enterFatal (r : Report) (s : State) : State := { s with runState := .halted, out := .report r }

/-- Reporting a non-fatal condition (R170). -/
def State.reportCondition (r : Report) (s : State) : State := { s with out := .report r }

/-- The address the instruction whose handler runs was fetched from (R165). -/
def State.iaddr (s : State) : Word := s.pc - 2#16

/-- `raise StackUnderflow` in a handler (R161). -/
def State.raiseStackUnderflow (s : State) : State := s.enterFatal (.stackUnderflow s.iaddr s.opcode)

/-- `raise MemRange(maddr)` in a handler (R162). -/
def State.raiseMemRange (maddr : Word) (s : State) : State := s.enterFatal (.memRange s.iaddr (some s.opcode) maddr)

/-- `raise MemRange(pc)` by the fetch: no word, and `pc` and `opcode` keep their values (R82, R162). -/
def State.raiseFetchRange (s : State) : State := s.enterFatal (.memRange s.pc none s.pc)

/-- `report StackOverflow` in a handler (R164). -/
def State.reportStackOverflow (s : State) : State := s.reportCondition (.stackOverflow s.iaddr s.opcode)

/-- The report of an undecodable word, made after the advance (R86, R163). -/
def State.reportUndecodable (s : State) : State := s.reportCondition (.undecodable s.iaddr s.opcode)

/-- The code of a report (R160, D20). -/
def Report.code : Report → Nat
  | .none => 0
  | .undecodable _ _ => 1
  | .stackOverflow _ _ => 2
  | .stackUnderflow _ _ => 3
  | .memRange _ _ _ => 4

/-- The fatal conditions (R160). -/
def Report.fatal : Report → Bool
  | .none => false
  | .undecodable _ _ => false
  | .stackOverflow _ _ => false
  | .stackUnderflow _ _ => true
  | .memRange _ _ _ => true

/-! ### The fetch and the advance (R82, R83) -/

/-- The fetch is in range: both bytes lie below 0x1000 (R54, R82). -/
def State.fetchInRange (s : State) : Bool := decide (s.pc.toNat ≤ 0x0FFE)

/-- The word at `pc` (R82, R53: read from memory itself at each cycle). -/
def State.fetchWord (s : State) : Word := s.wordAt s.pc.toNat

/-- The state a handler starts from: the word fetched is kept and `pc` is advanced by 2 (R82, R83). -/
def State.fetched (s : State) : State := { s with opcode := s.fetchWord, pc := s.pc + 2#16 }

/-- What a Cycle event does before anything else: its report is `None` until a condition is raised (R87), and LoadImage is no
longer admitted (R195). -/
def State.beginCycle (s : State) : State := { s with out := .report .none, booting := false }

end Sys2Proof.Machine
end

