-- ==== Sys2Proof/Machine/Operands.lean ====
section
/-!
DEFINITION. The operand forms (spec/30_encoding.md R62, R63; spec/44_index_memory.md): unsigned immediates, the one data
addressing mode `I + k`, its range check (spec/20_memory.md R54), the register list V0 to VX, the decimal digits, the keys and
the sprite coordinates.
-/

namespace Sys2Proof.Machine

/-- NNN zero-extended to the 16 bits of `pc` or `I` (R63). -/
def addrOf (nnn : Addr12) : Word := nnn.setWidth 16

/-- A register's 8-bit value zero-extended to 16 bits (R93, R131). -/
def State.regWord (s : State) (x : Reg) : Word := (s.reg x).setWidth 16

/-- The effective address `I + k`, an unbounded integer: no 16-bit wrap (R54). -/
def State.effAddr (s : State) (k : Nat) : Nat := s.index.toNat + k

/-- An access of `len` bytes from `I` on stays within memory; one of no byte always does (R54, R55). -/
def State.rangeOk (s : State) (len : Nat) : Bool := decide (len = 0 ∨ s.index.toNat + len - 1 ≤ 0xFFF)

/-- The first address out of range of an access from `I` on, `max(I, 0x1000)` (R54). -/
def State.rangeFaultAddr (s : State) : Word := BitVec.ofNat 16 (max s.index.toNat 0x1000)

/-- The check made once, before the instruction writes anything (R46, R54): either the effect of the whole access or the
fatal condition `MemRange`. -/
def State.checkedAccess (s : State) (len : Nat) (effect : State) : State :=
  if s.rangeOk len then effect else s.raiseMemRange s.rangeFaultAddr

/-- The registers V0 to VX, ascending: the implicit operand of the block store and load (R134, R135). -/
def regsUpTo (x : Reg) : List Reg := (List.finRange 16).filter (fun r => decide (r ≤ x))

/-- `V[i] <- mem[I + i]` for each register of a list, in its order (R135). -/
def State.loadRegList : List Reg → State → State
  | [], s => s
  | r :: rs, s => State.loadRegList rs (s.setReg r (s.byteAt (s.effAddr r.val)))

/-- The hundreds, tens and ones digits of a byte, each as a byte (R133). -/
def bcdDigits (b : Byte) : List Byte :=
  [BitVec.ofNat 8 (b.toNat / 100), BitVec.ofNat 8 (b.toNat / 10 % 10), BitVec.ofNat 8 (b.toNat % 10)]

/-- The key a register's value numbers, if it is 0 to 15 (R105, R106). -/
def keyOf (b : Byte) : Option Key := if h : b.toNat < 16 then some ⟨b.toNat, h⟩ else none

/-- The least key that is down, if one is (R153). -/
def State.lowestKeyDown (s : State) : Option Key := (List.finRange 16).find? (fun k => s.keyDown k)

/-- The start column of a sprite, VX mod 64 (R142). -/
def startColumn (b : Byte) : Nat := b.toNat % 64

/-- The start row of a sprite, VY mod 32 (R142). -/
def startRow (b : Byte) : Nat := b.toNat % 32

/-- Bit `7 - col` of a sprite byte: bit 7 is column 0 (R145, D14). -/
def spriteBit (b : Byte) (col : Nat) : Bool := b.getLsbD (7 - col)

end Sys2Proof.Machine
end

