-- ==== Sys2Proof/Machine/Flags.lean ====
section
/-!
DEFINITION. The flag computations (spec/10_state.md R12, spec/43_alu.md R111, spec/45_display.md R143). A flag is the byte
0x00 or 0x01, computed from the operands as they were before the instruction changed anything, and written to `V[15]` last.
-/

namespace Sys2Proof.Machine

/-- A condition as the byte a flag register holds: 1 or 0 (R12). -/
def flagByte (c : Bool) : Byte := if c then 0x01#8 else 0x00#8

/-- Carry of an addition: 1 exactly when the 9-bit sum exceeds 255 (R118). -/
def carryFlag (a b : Byte) : Byte := flagByte (decide (a.toNat + b.toNat > 255))

/-- Not-borrow of `a - b`: 1 exactly when `a >= b` (R119, R121). -/
def notBorrowFlag (a b : Byte) : Byte := flagByte (decide (b.toNat ≤ a.toNat))

/-- The bit a right shift shifts out, bit 0 (R120). -/
def shiftRightFlag (b : Byte) : Byte := flagByte (b.getLsbD 0)

/-- The bit a left shift shifts out, bit 7 (R122). -/
def shiftLeftFlag (b : Byte) : Byte := flagByte (b.getLsbD 7)

/-- The result to `V[x]` first and the flag to `V[15]` last (R111). -/
def State.setResultAndFlag (x : Reg) (result flag : Byte) (s : State) : State :=
  (s.setReg x result).setReg flagReg flag

end Sys2Proof.Machine
end

