-- ==== Sys2Proof/Machine/Alu.lean ====
section
/-!
DEFINITION. Loads, arithmetic, logic, shifts and random (spec/43_alu.md R110 to R123): unsigned 8-bit wrap-around. The five
flag-writing ones compute result and flag from the operands as they were and write the flag last (R111); no other writes
`V[15]` but as its destination (D6).
-/

namespace Sys2Proof.Machine

/-- `LD Vx, NN` (R112). -/
def execLdImm (x : Reg) (nn : Byte) (s : State) : Host.Outcome State Fault Refusal := .next (s.setReg x nn)

/-- `ADD Vx, NN` (R113): no flag (C6, D6). -/
def execAddImm (x : Reg) (nn : Byte) (s : State) : Host.Outcome State Fault Refusal :=
  .next (s.setReg x (s.reg x + nn))

/-- `LD Vx, Vy` (R114). -/
def execLdReg (x y : Reg) (s : State) : Host.Outcome State Fault Refusal := .next (s.setReg x (s.reg y))

/-- `OR Vx, Vy` (R115). -/
def execOrReg (x y : Reg) (s : State) : Host.Outcome State Fault Refusal := .next (s.setReg x (s.reg x ||| s.reg y))

/-- `AND Vx, Vy` (R116). -/
def execAndReg (x y : Reg) (s : State) : Host.Outcome State Fault Refusal := .next (s.setReg x (s.reg x &&& s.reg y))

/-- `XOR Vx, Vy` (R117). -/
def execXorReg (x y : Reg) (s : State) : Host.Outcome State Fault Refusal := .next (s.setReg x (s.reg x ^^^ s.reg y))

/-- `ADD Vx, Vy` (R118): the flag is the carry. -/
def execAddReg (x y : Reg) (s : State) : Host.Outcome State Fault Refusal :=
  .next (s.setResultAndFlag x (s.reg x + s.reg y) (carryFlag (s.reg x) (s.reg y)))

/-- `SUB Vx, Vy` (R119): VX minus VY; the flag is not-borrow. -/
def execSubReg (x y : Reg) (s : State) : Host.Outcome State Fault Refusal :=
  .next (s.setResultAndFlag x (s.reg x - s.reg y) (notBorrowFlag (s.reg x) (s.reg y)))

/-- `SHR Vx` (R120): in place, Y ignored (D5). -/
def execShr (x : Reg) (s : State) : Host.Outcome State Fault Refusal :=
  .next (s.setResultAndFlag x (s.reg x >>> 1) (shiftRightFlag (s.reg x)))

/-- `SUBN Vx, Vy` (R121): VY minus VX; the flag is not-borrow. -/
def execSubnReg (x y : Reg) (s : State) : Host.Outcome State Fault Refusal :=
  .next (s.setResultAndFlag x (s.reg y - s.reg x) (notBorrowFlag (s.reg y) (s.reg x)))

/-- `SHL Vx` (R122): in place, Y ignored (D5). -/
def execShl (x : Reg) (s : State) : Host.Outcome State Fault Refusal :=
  .next (s.setResultAndFlag x (s.reg x <<< 1) (shiftLeftFlag (s.reg x)))

/-- `RND Vx, NN` (R123): the random byte is a free value, a new one at each use (R186). -/
def execRnd (x : Reg) (nn : Byte) (s : State) : Host.Outcome State Fault Refusal :=
  .next (s.drawn.setReg x (Config.freeByte s.draws &&& nn))

end Sys2Proof.Machine
end

