-- ==== Sys2Proof/Machine/ControlFlow.lean ====
section
/-!
DEFINITION. Control transfer (spec/41_control_flow.md): `RET`, `JP`, `CALL`, `JP V0`. Targets have no alignment and are not
checked here; the next fetch is (R82).
-/

namespace Sys2Proof.Machine

/-- `RET` (R90): pop into `pc`, or the fatal underflow when the stack is empty. -/
def execRet (s : State) : Host.Outcome State Fault Refusal :=
  if h : s.sp.val = 0 then .next s.raiseStackUnderflow else .next (s.pop h)

/-- `JP NNN` (R91). -/
def execJp (nnn : Addr12) (s : State) : Host.Outcome State Fault Refusal := .next (s.setPc (addrOf nnn))

/-- `CALL NNN` (R92): push the advanced `pc`, or report the overflow and skip the call when the stack is full (D7). -/
def execCall (nnn : Addr12) (s : State) : Host.Outcome State Fault Refusal :=
  if h : s.sp.val < 16 then .next ((s.push h).setPc (addrOf nnn)) else .next s.reportStackOverflow

/-- `JP V0, NNN` (R93): the 16-bit sum, not reduced modulo 4096. -/
def execJpV0 (nnn : Addr12) (s : State) : Host.Outcome State Fault Refusal :=
  .next (s.setPc (addrOf nnn + s.regWord 0))

end Sys2Proof.Machine
end

