-- ==== Sys2Proof/Machine/Display.lean ====
section
/-!
DEFINITION. The display instructions and the sprite rasterizer (spec/45_display.md R140 to R145).
-/

namespace Sys2Proof.Machine

/-- `CLS` (R140): every cell off and `dirty` set, whatever the cells held (C4). -/
def execCls (s : State) : Host.Outcome State Fault Refusal :=
  .next { s with fb := Framebuffer.blank, dirty := true }

/-- What the rasterizer carries from pixel to pixel (R141): the framebuffer, whether an on cell was turned off, whether any
cell changed. -/
structure Canvas where
  fb : Framebuffer
  collision : Bool
  changed : Bool
  deriving DecidableEq, Repr

/-- A set sprite bit on the cell of column `x` and row `y`: exclusive-or, collision when the cell was on; beyond the right or
bottom edge it is dropped (R142, R143). -/
def plot (x y : Nat) (c : Canvas) : Canvas :=
  if h : x < 64 ∧ y < 32 then
    { fb := Framebuffer.setCell c.fb ⟨y, h.2⟩ ⟨x, h.1⟩ (!Framebuffer.cell c.fb ⟨y, h.2⟩ ⟨x, h.1⟩)
      collision := c.collision || Framebuffer.cell c.fb ⟨y, h.2⟩ ⟨x, h.1⟩
      changed := true }
  else c

/-- One column of a sprite row: a clear bit leaves its cell alone (R145). -/
def drawColumn (b : Byte) (x0 y : Nat) (c : Canvas) (col : Nat) : Canvas :=
  if spriteBit b col then plot (x0 + col) y c else c

/-- The eight columns of one sprite row, in ascending order (R141). -/
def drawRow (b : Byte) (x0 y : Nat) (c : Canvas) : Canvas := (List.range 8).foldl (drawColumn b x0 y) c

/-- The rows of a sprite of `n` bytes, in ascending order, the byte at `I + row` on row `y0 + row`; a row below the bottom edge
is neither read nor drawn (R141, R142). -/
def drawRows (s : State) (x0 y0 n : Nat) (c : Canvas) : Canvas :=
  (List.range n).foldl
    (fun c row => if y0 + row ≤ 31 then drawRow (s.byteAt (s.effAddr row)) x0 (y0 + row) c else c) c

/-- The canvas before the first pixel: no collision, nothing changed (R141). -/
def State.canvas (s : State) : Canvas := { fb := s.fb, collision := false, changed := false }

/-- The canvas after the sprite of `DRW Vx, Vy, N`, its coordinates sampled before `V[15]` is cleared (R141, R143, D15). -/
def State.drawSprite (x y : Reg) (n : Nibble) (s : State) : Canvas :=
  drawRows s (startColumn (s.reg x)) (startRow (s.reg y)) n.toNat s.canvas

/-- The canvas put back: the cells, the collision flag in `V[15]`, and `dirty` set when a cell changed, else kept (R143,
R144). -/
def State.putCanvas (c : Canvas) (s : State) : State :=
  { s.setReg flagReg (flagByte c.collision) with fb := c.fb, dirty := s.dirty || c.changed }

/-- `DRW Vx, Vy, N` (R141). The range of all N bytes is checked before anything is written (R54, D15). -/
def execDrw (x y : Reg) (n : Nibble) (s : State) : Host.Outcome State Fault Refusal :=
  .next (s.checkedAccess n.toNat (s.putCanvas (s.drawSprite x y n)))

end Sys2Proof.Machine
end

