-- ==== Sys2Proof/Machine/IndexMemory.lean ====
section
/-!
DEFINITION. The index register and the memory instructions (spec/44_index_memory.md R130 to R135). None changes a flag, and no
access changes `I`.
-/

namespace Sys2Proof.Machine

/-- `LD I, NNN` (R130). -/
def execLdIndex (nnn : Addr12) (s : State) : Host.Outcome State Fault Refusal := .next (s.setIndex (addrOf nnn))

/-- `ADD I, Vx` (R131): modulo 65536, not masked to 12 bits, no flag (D10). -/
def execAddIndex (x : Reg) (s : State) : Host.Outcome State Fault Refusal :=
  .next (s.setIndex (s.index + s.regWord x))

/-- `LD F, Vx` (R132): the glyph's address for a digit 0 to 15, a free value otherwise (D11). -/
def execLdFont (x : Reg) (s : State) : Host.Outcome State Fault Refusal :=
  if (s.reg x).toNat ≤ 15 then .next (s.setIndex (s.font.glyphAddress (s.reg x).toNat))
  else .next (s.drawn.setIndex (Config.freeIndex s.draws))

/-- `LD B, Vx` (R133): three digits at `I`, `I + 1`, `I + 2`. -/
def execLdBcd (x : Reg) (s : State) : Host.Outcome State Fault Refusal :=
  .next (s.checkedAccess 3 (State.writeBytes (s.effAddr 0) (bcdDigits (s.reg x)) s))

/-- `LD [I], Vx` (R134): V0 to VX at `I` to `I + X`. -/
def execStoreRegs (x : Reg) (s : State) : Host.Outcome State Fault Refusal :=
  .next (s.checkedAccess (x.val + 1) (State.writeBytes (s.effAddr 0) ((regsUpTo x).map s.reg) s))

/-- `LD Vx, [I]` (R135): V0 to VX from `I` to `I + X`. -/
def execLoadRegs (x : Reg) (s : State) : Host.Outcome State Fault Refusal :=
  .next (s.checkedAccess (x.val + 1) (State.loadRegList (regsUpTo x) s))

end Sys2Proof.Machine
end

