-- ==== Sys2Proof/Machine/Skips.lean ====
section
/-!
DEFINITION. The six conditional skips (spec/42_skips.md R100 to R106).
-/

namespace Sys2Proof.Machine

/-- A skip on the key a register numbers: down (`SKP`) or not down (`SKNP`). A register above 15 numbers no key, and the skip
is then taken or not, by a free value (R105, R106, D12). -/
def skipOnKey (wantDown : Bool) (x : Reg) (s : State) : State :=
  match keyOf (s.reg x) with
  | some k => s.skipIf (s.keyDown k == wantDown)
  | none => s.drawn.skipIf (Config.freeSkip s.draws)

/-- `SE Vx, NN` (R101). -/
def execSeImm (x : Reg) (nn : Byte) (s : State) : Host.Outcome State Fault Refusal :=
  .next (s.skipIf (s.reg x == nn))

/-- `SNE Vx, NN` (R102). -/
def execSneImm (x : Reg) (nn : Byte) (s : State) : Host.Outcome State Fault Refusal :=
  .next (s.skipIf (s.reg x != nn))

/-- `SE Vx, Vy` (R103). -/
def execSeReg (x y : Reg) (s : State) : Host.Outcome State Fault Refusal :=
  .next (s.skipIf (s.reg x == s.reg y))

/-- `SNE Vx, Vy` (R104). -/
def execSneReg (x y : Reg) (s : State) : Host.Outcome State Fault Refusal :=
  .next (s.skipIf (s.reg x != s.reg y))

/-- `SKP Vx` (R105). -/
def execSkp (x : Reg) (s : State) : Host.Outcome State Fault Refusal := .next (skipOnKey true x s)

/-- `SKNP Vx` (R106). -/
def execSknp (x : Reg) (s : State) : Host.Outcome State Fault Refusal := .next (skipOnKey false x s)

end Sys2Proof.Machine
end

