-- ==== Sys2Proof/Machine/TimersKeypad.lean ====
section
/-!
DEFINITION. The timer and keypad instructions (spec/46_timers_keypad.md R150 to R153).
-/

namespace Sys2Proof.Machine

/-- `LD Vx, DT` (R150). -/
def execLdVxDt (x : Reg) (s : State) : Host.Outcome State Fault Refusal := .next (s.setReg x s.dt)

/-- `LD DT, Vx` (R151). -/
def execLdDtVx (x : Reg) (s : State) : Host.Outcome State Fault Refusal := .next (s.setDt (s.reg x))

/-- `LD ST, Vx` (R152). -/
def execLdStVx (x : Reg) (s : State) : Host.Outcome State Fault Refusal := .next (s.setSt (s.reg x))

/-- `LD Vx, K` (R153): the least key that is down, or back to this instruction's own address when none is. -/
def execLdVxKey (x : Reg) (s : State) : Host.Outcome State Fault Refusal :=
  match s.lowestKeyDown with
  | some k => .next (s.setReg x (BitVec.ofNat 8 k.val))
  | none => .next (s.setPc (s.pc - 2#16))

end Sys2Proof.Machine
end

