-- ==== Sys2Proof/Machine/Cycle.lean ====
section
/-!
DEFINITION. The Cycle event (spec/40_cycle_engine.md R80 to R88): run state, fetch range, fetch, advance, decode, dispatch, in
this order (spec/60_exceptions.md R168).
-/

namespace Sys2Proof.Machine

/-- The part of a cycle after the advance: decode `opcode` and run the one handler, or report an undecodable word (R84 to
R86). -/
def dispatchWord (s : State) : Host.Outcome State Fault Refusal :=
  match decode s.opcode with
  | .ok i => exec i s
  | .error _ => .next s.reportUndecodable

/-- `Cycle(rnd)` (R87). Not Running: nothing changes and the report is `None` (R81). Out of range: the fetch is fatal (R82). -/
def cycle (s : State) : Host.Outcome State Fault Refusal :=
  match s.runState with
  | .running =>
    if s.fetchInRange then dispatchWord s.beginCycle.fetched
    else .next s.beginCycle.raiseFetchRange
  | .paused | .halted => .next s.beginCycle

end Sys2Proof.Machine
end

