-- ==== Sys2Proof/Machine/Events.lean ====
section
/-!
DEFINITION. The events of the host (spec/60_exceptions.md R172, R175, R180 to R184; spec/70_reset_and_hazards.md R190, R193,
R195), each one atomic step.
-/

namespace Sys2Proof.Machine

/-- An event without an output. -/
def State.silently (s : State) : State := { s with out := .silent }

/-- `Reset()` with its input FONT_BASE and FONT_DATA (R190): every piece of the hardware's state at its reset value. What the
host has scheduled and how many free values have been drawn are the model's own and go on. -/
def State.afterReset (f : Font) (s : State) : State :=
  { State.reset with font := f, schedule := s.schedule, draws := s.draws }

/-- `LoadImage(bytes)` (R181): at most 3584 bytes, copied from 0x200 on; a longer image or an unreadable source leaves the
machine as it was. -/
def State.afterLoad (source : Option (List Byte)) (s : State) : State :=
  match source with
  | none => { s with out := .load .readFailure }
  | some bytes =>
    if bytes.length ≤ 3584 then { State.writeBytes 0x200 bytes s with out := .load .ok }
    else { s with out := .load .sizeExceeded }

/-- One timer counted down by 1, never below 0 (R172). -/
def countDown (b : Byte) : Byte := if b = 0x00#8 then b else b - 0x01#8

/-- `Tick()` (R172), in every run state (R174). -/
def State.afterTick (s : State) : State := { s.silently with dt := countDown s.dt, st := countDown s.st }

/-- `KeySet(k, down)` (R183). -/
def State.afterKeySet (k : Key) (down : Bool) (s : State) : State :=
  { s.silently with key := s.key.set k.val down k.isLt }

/-- `DirtyClear()` (R182). -/
def State.afterDirtyClear (s : State) : State := { s.silently with dirty := false }

/-- The run state after `SetRunState(r)`: Halted is final (R175). -/
def nextRunState (old r : RunState) : RunState :=
  match old with
  | .halted => .halted
  | .running | .paused => r

/-- `SetRunState(r)` (R175). -/
def State.afterSetRunState (r : RunState) (s : State) : State :=
  { s.silently with runState := nextRunState s.runState r }

/-- The tone predicate the audio collaborator reads (R184). -/
def State.toneOn (s : State) : Bool := s.st != 0x00#8

/-- One event of the host (R180). LoadImage is admitted only between a Reset and the first Cycle after it (R195). -/
def deliver (e : HostEvent) (s : State) : Host.Outcome State Fault Refusal :=
  match e with
  | .reset f => .next (s.afterReset f)
  | .loadImage source => if s.booting then .next (s.afterLoad source) else .refused .lateLoad
  | .cycle => cycle s
  | .tick => .next s.afterTick
  | .keySet k down => .next (s.afterKeySet k down)
  | .dirtyClear => .next s.afterDirtyClear
  | .setRunState r => .next (s.afterSetRunState r)

/-- The event that comes next: the oldest one scheduled, else a Cycle (R185, log entry 1). -/
def State.nextEvent (s : State) : HostEvent :=
  match s.schedule with
  | [] => .cycle
  | e :: _ => e

/-- The state without the event that comes next. -/
def State.popEvent (s : State) : State := { s with schedule := s.schedule.tail }

/-- An instruction's word stored where the fetch reads (R43), nothing scheduled and the machine Running, so that the very next
step is the cycle that runs it. Where `pc` is above 0x0FFE there is no place for a whole word, and no fetch (R54). -/
def State.placeWord (w : Word) (s : State) : State :=
  { State.writeBytes s.pc.toNat [highByte w, lowByte w] s with runState := .running, schedule := [] }

end Sys2Proof.Machine
end

