-- ==== Sys2Proof/Machine/Step.lean ====
section
/-!
DEFINITION. One step of the machine is one event of the host (spec/60_exceptions.md R180): the oldest one scheduled, or a Cycle
when none is (R185).
-/

namespace Sys2Proof.Machine

/-- One step: the event that comes next is delivered to the machine (R180). -/
def step (s : State) : Host.Outcome State Fault Refusal := deliver s.nextEvent s.popEvent

/-- The state with the instruction of the table bits `w` where the next step fetches it (log entry 11). -/
def State.withFetchWord (s : State) (nbits w : Nat) : State := s.placeWord (tableWord nbits w)

end Sys2Proof.Machine
end

