-- ==== Sys2Proof/Safety.lean ====
section
/-!
DEFINITION. What a claim says of a state or of a step: the invariants of the machine, the state a handler starts from, and what
an instruction leaves unchanged (its frame), said through the model's own reads.
-/

namespace Sys2Proof.Machine

/-! ### Invariants -/

/-- The memory is in canonical form, so that equal memories are equal data. -/
def State.MemCanonical (s : State) : Prop := Memory.wf s.font s.mem = true

/-- `pc` is at most 0x10FE, the largest value it can hold (R15), and no stack entry, live or stale, is above 0x1000, the
largest return address a `CALL` can push (R92). -/
def State.PcBounded (s : State) : Prop := s.pc.toNat ≤ 0x10FE ∧ ∀ k : Fin 16, s.stack[k].toNat ≤ 0x1000

/-- A safe state: no fatal condition has been taken and the host has not halted the machine (R169, R175). -/
def State.Safe (s : State) : Prop := s.runState ≠ .halted

/-! ### Steps -/

/-- The next step is a Cycle event of a Running machine whose fetch is in range (R81, R82). -/
def State.AboutToFetch (s : State) : Prop :=
  s.nextEvent = .cycle ∧ s.runState = .running ∧ s.pc.toNat ≤ 0x0FFE

/-- The state a handler starts from (R83): `opcode` is the word at `pc`, high byte first, and `pc` is advanced by 2. The event
is taken off the schedule, the report is `None` so far, and LoadImage is no longer admitted. -/
def State.handlerStart (s : State) : State :=
  { s with
    schedule := s.schedule.tail
    out := .report .none
    booting := false
    opcode := s.byteAt s.pc.toNat ++ s.byteAt (s.pc.toNat + 1)
    pc := s.pc + 2#16 }

/-! ### Frames -/

/-- Every byte of memory reads as before. -/
def SameBytes (s t : State) : Prop := ∀ a, t.byteAt a = s.byteAt a

/-- Every byte of memory outside the `len` bytes from `a` on reads as before. -/
def SameBytesOutside (a len : Nat) (s t : State) : Prop := ∀ b, b < a ∨ a + len ≤ b → t.byteAt b = s.byteAt b

/-- The bytes from `a` on are those of a list. -/
def MemoryShows (s : State) (a : Nat) (bs : List Byte) : Prop :=
  ∀ (j : Nat) (h : j < bs.length), s.byteAt (a + j) = bs[j]

/-- Every general register outside a list reads as before. -/
def SameRegsBut (ds : List Reg) (s t : State) : Prop := ∀ r, r ∉ ds → t.reg r = s.reg r

/-- Nothing but the general registers of a list has changed. -/
def OnlyRegs (ds : List Reg) (s t : State) : Prop :=
  SameRegsBut ds s t ∧ SameBytes s t ∧ t = { s with v := t.v }

/-- Nothing but `pc` has changed. -/
def OnlyPc (s t : State) : Prop := SameRegsBut [] s t ∧ SameBytes s t ∧ t = { s with pc := t.pc }

/-- Nothing but `I` has changed. -/
def OnlyIndex (s t : State) : Prop := SameRegsBut [] s t ∧ SameBytes s t ∧ t = { s with index := t.index }

/-- Nothing but the `len` bytes of memory from `a` on has changed. -/
def OnlyBytes (a len : Nat) (s t : State) : Prop :=
  SameRegsBut [] s t ∧ SameBytesOutside a len s t ∧ t = { s with mem := t.mem }

/-- A handler has taken a fatal condition and written nothing (R162, R169): the machine is halted and has reported `r`, and
everything else is as the handler found it. -/
def HaltedWith (r : Report) (s t : State) : Prop :=
  SameRegsBut [] s t ∧ SameBytes s t ∧ t = { s with runState := .halted, out := .report r }

/-! ### The sprite as a picture -/

/-- The cell of column `x` and row `y` lies under a set bit of the sprite of `n` bytes at `I`, drawn from column `x0` and row
`y0` (R145): bit `7 - (x - x0)` of the byte at `I + (y - y0)`. -/
def State.spritePixel (s : State) (x0 y0 n : Nat) (y : Fin 32) (x : Fin 64) : Bool :=
  decide (y0 ≤ y.val ∧ y.val < y0 + n ∧ x0 ≤ x.val ∧ x.val < x0 + 8) &&
    (s.byteAt (s.index.toNat + (y.val - y0))).getLsbD (7 - (x.val - x0))

end Sys2Proof.Machine
end

