-- ==== Sys2Proof/Certificates/Slice0/Obligations.lean ====
section
/-!
DEFINITION. The statements for the provers, in the order of OBLIGATIONS.json. Each docstring says which rule of spec/ it
formalises, or, for a derived one, which sections it rests on and whose choice they are. A handler's state is the one the fetch
and the advance left (spec/40_cycle_engine.md R83): `pc` is already the address of the following instruction and `opcode` the
word fetched, so the address `a` of the instruction is `pc - 2`.
-/

open Sys2Proof Sys2Proof.Machine

/-! ## Encoding -/

/-- Fourteen words of spec/95_test_vectors.md decode as its tables say: thirteen of part V-enc, and 512F of V15 (part V-skip).
Where the table says only 'undecodable', the name of the family is the model's (`DecodeError`). That 01E0 is undecodable is the
spec's own decision D3, that 512F is SE is D4, that 8AB6 is SHR of V[X] alone is D5 (the ignored nibbles kept in the instruction
are log entry 7), and the opcode numbers are supplied from general knowledge (G1). A sanity statement. -/
def Obligations.SpecWordsDecodeAsListed : Prop :=
  decode 0x6105#16 = .ok (.ldImm 1 0x05#8) ∧ decode 0xD125#16 = .ok (.drw 1 2 5#4) ∧
  decode 0x8AB4#16 = .ok (.addReg 10 11) ∧ decode 0xBFFF#16 = .ok (.jpV0 0xFFF#12) ∧
  decode 0x00E0#16 = .ok .cls ∧ decode 0x00EE#16 = .ok .ret ∧
  decode 0x512F#16 = .ok (.seReg 1 2 0xF#4) ∧ decode 0x8AB6#16 = .ok (.shr 10 0xB#4) ∧
  decode 0xE1A1#16 = .ok (.sknp 1) ∧ decode 0xFF0A#16 = .ok (.ldVxKey 15) ∧
  decode 0x01E0#16 = .error .noHandler0 ∧ decode 0x8AB8#16 = .error .noHandler8 ∧
  decode 0xE19F#16 = .error .noHandlerE ∧ decode 0xF066#16 = .error .noHandlerF

/-- R62: the six fields of every word are the numbers the rule gives, and they overlap as it says. -/
def Obligations.FieldsAreTheNumberedBits : Prop :=
  ∀ w : Word,
    (fieldP w).toNat = w.toNat / 4096 ∧ (fieldX w).val = w.toNat / 256 % 16 ∧ (fieldY w).val = w.toNat / 16 % 16 ∧
    (fieldN w).toNat = w.toNat % 16 ∧ (fieldNN w).toNat = w.toNat % 256 ∧ (fieldNNN w).toNat = w.toNat % 4096 ∧
    fieldNN w = regBits (fieldY w) ++ fieldN w ∧ fieldNNN w = regBits (fieldX w) ++ regBits (fieldY w) ++ fieldN w

/-- Every instruction, with every operand at every value, is read back from its own word. The opcode numbers are supplied to
the spec from general knowledge (G1, D1). -/
def Obligations.DecodeUndoesEncode : Prop := ∀ i : Instr, decode (encode i) = .ok i

/-- No bit of a decodable word is dropped: the word is the encoding of what it decodes to. -/
def Obligations.EncodeUndoesDecode : Prop := ∀ (w : Word) (i : Instr), decode w = .ok i → encode i = w

/-- The dispatch by selectors (30_encoding.md section 2) and the opcode list of match and mask (its section 3) are the same
decoder: 34 rows, no word selects two, a decoded word selects the row of its mnemonic, an undecodable word selects none. -/
def Obligations.DispatchAgreesWithOpcodeList : Prop :=
  opcodeTable.length = 34 ∧
  (∀ w : Word, ∀ r ∈ opcodeTable, ∀ q ∈ opcodeTable, r.selects w = true → q.selects w = true → r = q) ∧
  (∀ (w : Word) (i : Instr), decode w = .ok i →
    ∃ r ∈ opcodeTable, r.mnemonic = i.mnemonic ∧ r.selects w = true) ∧
  (∀ (w : Word) (e : DecodeError), decode w = .error e → ∀ r ∈ opcodeTable, r.selects w = false)

/-- The undecodable words are exactly the four families of 30_encoding.md section 4. That primary 0x0 selects on the whole
word is the spec's own decision D3. -/
def Obligations.UndecodableWordsAreTheFourFamilies : Prop :=
  ∀ w : Word, (∃ e, decode w = .error e) ↔
    (w.toNat < 0x1000 ∧ w.toNat ≠ 0x00E0 ∧ w.toNat ≠ 0x00EE) ∨
    (w.toNat / 0x1000 = 0x8 ∧ w.toNat % 16 ∈ [0x8, 0x9, 0xA, 0xB, 0xC, 0xD, 0xF]) ∨
    (w.toNat / 0x1000 = 0xE ∧ w.toNat % 256 ∉ [0x9E, 0xA1]) ∨
    (w.toNat / 0x1000 = 0xF ∧ w.toNat % 256 ∉ [0x07, 0x0A, 0x15, 0x18, 0x1E, 0x29, 0x33, 0x55, 0x65])

/-- Ignored fields: any low nibble of `5XY_` and `9XY_`, and any Y of `8XY6` and `8XYE`, decodes to the same instruction and
runs as its canonical form does. The spec's own decisions D4 and D5. -/
def Obligations.IgnoredFieldsChangeNothing : Prop :=
  ∀ (x y : Reg) (n : Nibble) (s : State),
    decode (0x5#4 ++ regBits x ++ regBits y ++ n) = .ok (.seReg x y n) ∧
    decode (0x9#4 ++ regBits x ++ regBits y ++ n) = .ok (.sneReg x y n) ∧
    decode (0x8#4 ++ regBits x ++ n ++ 0x6#4) = .ok (.shr x n) ∧
    decode (0x8#4 ++ regBits x ++ n ++ 0xE#4) = .ok (.shl x n) ∧
    exec (.seReg x y n) s = exec (.seReg x y 0#4) s ∧ exec (.sneReg x y n) s = exec (.sneReg x y 0#4) s ∧
    exec (.shr x n) s = exec (.shr x 0#4) s ∧ exec (.shl x n) s = exec (.shl x 0#4) s

/-! ## The cycle -/

/-- A step runs the decoded instruction: on a Running machine whose next event is a Cycle and whose `pc` is in range, when the
two bytes at `pc`, high byte first, decode to `i`, the step is `exec` of `i` on the state with the word kept, `pc` advanced,
the report `None`, the event taken and LoadImage no longer admitted. -/
def Obligations.StepRunsTheDecodedInstruction : Prop :=
  ∀ (s : State) (i : Instr), s.AboutToFetch →
    decode (s.byteAt s.pc.toNat ++ s.byteAt (s.pc.toNat + 1)) = .ok i → step s = exec i s.handlerStart

/-- R86: an undecodable word runs no handler; the whole effect is the word kept, `pc` advanced and the report. -/
def Obligations.UndecodableWordIsAReportedNoOp : Prop :=
  ∀ (s : State) (e : DecodeError), s.AboutToFetch →
    decode (s.byteAt s.pc.toNat ++ s.byteAt (s.pc.toNat + 1)) = .error e →
    ∃ t, step s = .next t ∧ t.runState = .running ∧ SameRegsBut [] s t ∧ SameBytes s t ∧
      t = { s.handlerStart with
            out := .report (.undecodable s.pc (s.byteAt s.pc.toNat ++ s.byteAt (s.pc.toNat + 1))) }

/-- A fetch from above 0x0FFE halts with the report `MemRange` without a word; `pc` and `opcode` keep their values. The spec's
own decision D9. -/
def Obligations.FetchOutOfRangeHalts : Prop :=
  ∀ s : State, s.nextEvent = .cycle → s.runState = .running → 0x0FFE < s.pc.toNat →
    ∃ t, step s = .next t ∧ SameRegsBut [] s t ∧ SameBytes s t ∧
      t = { s with
            schedule := s.schedule.tail, booting := false, runState := .halted
            out := .report (.memRange s.pc none s.pc) }

/-- A Cycle event while Paused or Halted changes nothing of the machine and reports `None`. The spec's own decision D17. -/
def Obligations.CycleWhileNotRunningChangesNothing : Prop :=
  ∀ s : State, s.nextEvent = .cycle → s.runState ≠ .running →
    ∃ t, step s = .next t ∧ SameRegsBut [] s t ∧ SameBytes s t ∧
      t = { s with schedule := s.schedule.tail, booting := false, out := .report .none }

/-- Every instruction on every state, and every event, answers a next state, except a LoadImage after the first Cycle since
Reset, which the model refuses by name (D23, log entry 4). -/
def Obligations.EveryStepAnswers : Prop :=
  (∀ (i : Instr) (s : State), ∃ t, exec i s = .next t) ∧
  (∀ s : State, (∀ source, s.nextEvent = .loadImage source → s.booting = true) → ∃ t, step s = .next t) ∧
  (∀ (s : State) (source : Option (List Byte)), s.nextEvent = .loadImage source → s.booting = false →
    step s = .refused .lateLoad)

/-- The table of 10_state.md section 2: what `pc` may be after the cycle of an instruction fetched from `a` on the state `s`. -/
def pcAfter (i : Instr) (a : Word) (s : State) (p : Word) : Prop :=
  match i with
  | .seImm x nn => p = if s.reg x = nn then a + 4#16 else a + 2#16
  | .sneImm x nn => p = if s.reg x = nn then a + 2#16 else a + 4#16
  | .seReg x y _ => p = if s.reg x = s.reg y then a + 4#16 else a + 2#16
  | .sneReg x y _ => p = if s.reg x = s.reg y then a + 2#16 else a + 4#16
  | .skp x =>
    (∀ k : Key, (s.reg x).toNat = k.val → p = if s.keyDown k = true then a + 4#16 else a + 2#16) ∧
    (p = a + 2#16 ∨ p = a + 4#16)
  | .sknp x =>
    (∀ k : Key, (s.reg x).toNat = k.val → p = if s.keyDown k = true then a + 2#16 else a + 4#16) ∧
    (p = a + 2#16 ∨ p = a + 4#16)
  | .jp nnn => p.toNat = nnn.toNat
  | .jpV0 nnn => p.toNat = nnn.toNat + (s.reg 0).toNat
  | .call nnn => if s.sp.val < 16 then p.toNat = nnn.toNat else p = a + 2#16
  | .ret => (s.sp.val = 0 → p = a + 2#16) ∧ ∀ k : Fin 16, s.sp.val = k.val + 1 → p = s.stack[k]
  | .ldVxKey _ => ((∃ k, s.keyDown k = true) → p = a + 2#16) ∧ ((∀ k, s.keyDown k = false) → p = a)
  | .cls | .ldImm _ _ | .addImm _ _ | .ldReg _ _ | .orReg _ _ | .andReg _ _ | .xorReg _ _ | .addReg _ _ | .subReg _ _
  | .shr _ _ | .subnReg _ _ | .shl _ _ | .ldIndex _ | .rnd _ _ | .drw _ _ _ | .ldVxDt _ | .ldDtVx _ | .ldStVx _
  | .addIndex _ | .ldFont _ | .ldBcd _ | .storeRegs _ | .loadRegs _ => p = a + 2#16

/-- How each instruction, each undecodable word and a fetch out of range leave `pc` (the table of 10_state.md section 2, which
the spec derives from its other rules and its decisions D7, D8, D9, D12). -/
def Obligations.PcAfterEachInstruction : Prop :=
  (∀ (s t : State) (i : Instr), s.AboutToFetch →
    decode (s.byteAt s.pc.toNat ++ s.byteAt (s.pc.toNat + 1)) = .ok i → step s = .next t → pcAfter i s.pc s t.pc) ∧
  (∀ (s t : State) (e : DecodeError), s.AboutToFetch →
    decode (s.byteAt s.pc.toNat ++ s.byteAt (s.pc.toNat + 1)) = .error e → step s = .next t → t.pc = s.pc + 2#16) ∧
  (∀ s t : State, s.nextEvent = .cycle → s.runState = .running → 0x0FFE < s.pc.toNat → step s = .next t → t.pc = s.pc)

/-- A cycle that halts the machine has saved nothing and gone nowhere: but for the run state and the report, the state is
exactly what the fetch and the advance left, or, for a fetch fault, what it was before the cycle; the report is a fatal one
(60_exceptions.md section 2). That a fetch from above 0x0FFE, and a data access above 0xFFF, is a fatal condition is the spec's
own decision D9, that an underflow is one and ends in Halted D8 (log entry 6). -/
def Obligations.FatalConditionsArePrecise : Prop :=
  (∀ s t : State, s.AboutToFetch → step s = .next t → t.runState = .halted →
    SameRegsBut [] s t ∧ SameBytes s t ∧ (∃ r : Report, r.fatal = true ∧ t.out = .report r) ∧
      t = { s.handlerStart with runState := .halted, out := t.out }) ∧
  (∀ s t : State, s.nextEvent = .cycle → s.runState = .running → 0x0FFE < s.pc.toNat → step s = .next t →
    SameRegsBut [] s t ∧ SameBytes s t ∧ (∃ r : Report, r.fatal = true ∧ t.out = .report r) ∧
      t = { s with schedule := s.schedule.tail, booting := false, runState := .halted, out := t.out })

/-- The table of 60_exceptions.md section 1: which condition an instruction's handler can report. -/
def mayReport : Instr → Report → Bool
  | .ret, .stackUnderflow _ _ => true
  | .call _, .stackOverflow _ _ => true
  | .drw _ _ _, .memRange _ _ _ => true
  | .ldBcd _, .memRange _ _ _ => true
  | .storeRegs _, .memRange _ _ _ => true
  | .loadRegs _, .memRange _ _ _ => true
  | _, _ => false

/-- Which instruction can raise what, over all instructions: a handler leaves report and run state alone, or reports a
condition its row allows, with its own address and word, and halts exactly when that condition is fatal. The spec derives the
table from its instruction rules; `MemRange` is its own decision D9. -/
def Obligations.ConditionsAnInstructionCanRaise : Prop :=
  ∀ (i : Instr) (s t : State), exec i s = .next t →
    (t.out = s.out ∧ t.runState = s.runState) ∨
    (∃ r : Report, mayReport i r = true ∧ t.out = .report r ∧
      t.runState = (if r.fatal then .halted else s.runState) ∧
      (r = .stackUnderflow (s.pc - 2#16) s.opcode ∨ r = .stackOverflow (s.pc - 2#16) s.opcode ∨
        ∃ m, r = .memRange (s.pc - 2#16) (some s.opcode) m ∧ m.toNat = max s.index.toNat 0x1000))

/-- The instructions that write `I` (10_state.md section 3). -/
def writesIndex : Instr → Bool
  | .ldIndex _ | .addIndex _ | .ldFont _ => true
  | _ => false

/-- The instructions that write the framebuffer and set `dirty` (10_state.md sections 4 and 5). -/
def writesDisplay : Instr → Bool
  | .cls | .drw _ _ _ => true
  | _ => false

/-- The instructions that write memory (20_memory.md section 1). -/
def writesMemory : Instr → Bool
  | .ldBcd _ | .storeRegs _ => true
  | _ => false

/-- The instructions that move `sp` (10_state.md section 3). -/
def movesSp : Instr → Bool
  | .call _ | .ret => true
  | _ => false

/-- The whole-machine promises of 10_state.md and 20_memory.md about who writes what, over all instructions: `I` only by its
three, the stack only by CALL, `sp` only by CALL and RET, each timer only by its own load, display and `dirty` only by CLS and
DRW and `dirty` never cleared by an instruction, memory only by its two stores; keys, `opcode`, the font, the schedule and the
loader's window by none. -/
def Obligations.WhoWritesWhat : Prop :=
  ∀ (i : Instr) (s t : State), exec i s = .next t →
    (writesIndex i = false → t.index = s.index) ∧
    ((∀ nnn, i ≠ .call nnn) → t.stack = s.stack) ∧
    (movesSp i = false → t.sp = s.sp) ∧
    ((∀ x, i ≠ .ldDtVx x) → t.dt = s.dt) ∧
    ((∀ x, i ≠ .ldStVx x) → t.st = s.st) ∧
    (writesDisplay i = false → t.fb = s.fb ∧ t.dirty = s.dirty) ∧
    (s.dirty = true → t.dirty = true) ∧
    (writesMemory i = false → SameBytes s t ∧ t.mem = s.mem) ∧
    t.key = s.key ∧ t.opcode = s.opcode ∧ t.font = s.font ∧ t.schedule = s.schedule ∧ t.booting = s.booting

/-- The registers an instruction may write: its destination, and `V[15]` for the six that write a flag. -/
def destRegs : Instr → List Reg
  | .ldImm x _ | .addImm x _ | .ldReg x _ | .orReg x _ | .andReg x _ | .xorReg x _ | .rnd x _ | .ldVxDt x | .ldVxKey x => [x]
  | .addReg x _ | .subReg x _ | .subnReg x _ | .shr x _ | .shl x _ => [x, 15]
  | .drw _ _ _ => [15]
  | .loadRegs x => regsUpTo x
  | .cls | .ret | .jp _ | .call _ | .seImm _ _ | .sneImm _ _ | .seReg _ _ _ | .sneReg _ _ _ | .ldIndex _ | .jpV0 _ | .skp _
  | .sknp _ | .ldDtVx _ | .ldStVx _ | .addIndex _ | .ldFont _ | .ldBcd _ | .storeRegs _ => []

/-- The six instructions that write `V[15]` as a flag (10_state.md section 1). -/
def writesFlag : Instr → Bool
  | .addReg _ _ | .subReg _ _ | .subnReg _ _ | .shr _ _ | .shl _ _ | .drw _ _ _ => true
  | _ => false

/-- Over all instructions, no register changes but the destination and, for the six flag writers, `V[15]`, which then holds 0
or 1 unless the instruction took a fatal condition and wrote nothing. Which instructions write the flag is the spec's own
decision D6. -/
def Obligations.InstructionsWriteOnlyTheirRegisters : Prop :=
  ∀ (i : Instr) (s t : State), exec i s = .next t →
    SameRegsBut (destRegs i) s t ∧
    (writesFlag i = true →
      t.reg 15 = 0x00#8 ∨ t.reg 15 = 0x01#8 ∨ ∃ r : Report, r.fatal = true ∧ HaltedWith r s t)

/-- Halted is left only by Reset: whatever event comes, a halted machine that is not reset stays halted, and a cycle of it
changes nothing of the machine. The spec's own decision D17. -/
def Obligations.HaltedIsLeftOnlyByReset : Prop :=
  ∀ s t : State, s.runState = .halted → step s = .next t →
    (t.runState = .halted ∨ ∃ f, s.nextEvent = .reset f) ∧
    (s.nextEvent = .cycle →
      t = { s with schedule := s.schedule.tail, booting := false, out := .report .none })

/-- R182: DirtyClear clears `dirty` and nothing else, and nothing a program can observe depends on it: an instruction run with
another value of `dirty` does the same in everything but `dirty`. -/
def Obligations.PresentationTimingIsUnobservable : Prop :=
  (∀ s : State, s.nextEvent = .dirtyClear → ∃ t, step s = .next t ∧ SameRegsBut [] s t ∧ SameBytes s t ∧
    t = { s with schedule := s.schedule.tail, out := .silent, dirty := false }) ∧
  (∀ (i : Instr) (s t : State) (b : Bool), exec i s = .next t →
    ∃ u, exec i { s with dirty := b } = .next u ∧ { u with dirty := t.dirty } = t)

/-- No instruction reads `ST` or `opcode` (10_state.md section 4): run with another value of either, it does
the same in everything but that field, and the report, which quotes the word. -/
def Obligations.SoundTimerAndOpcodeAreUnreadable : Prop :=
  ∀ (i : Instr) (s t : State) (b : Byte) (w : Word), exec i s = .next t →
    (∃ u, exec i { s with st := b } = .next u ∧ { u with st := t.st } = t) ∧
    (∃ u, exec i { s with opcode := w } = .next u ∧ { u with opcode := t.opcode, out := t.out } = t)

/-! ## The other events of the host -/

/-- A Tick counts each timer down by 1, never below 0, and does nothing else, in every run state. That it does so also while
Paused or Halted is the spec's own decision D18 (log entry 6). -/
def Obligations.TickCountsBothTimersDown : Prop :=
  ∀ s : State, s.nextEvent = .tick →
    ∃ t, step s = .next t ∧ t.dt.toNat = s.dt.toNat - 1 ∧ t.st.toNat = s.st.toNat - 1 ∧
      SameRegsBut [] s t ∧ SameBytes s t ∧
      t = { s with schedule := s.schedule.tail, out := .silent, dt := t.dt, st := t.st }

/-- R183: KeySet sets one flag and nothing else, and no instruction writes a flag. -/
def Obligations.KeySetSetsOneFlag : Prop :=
  (∀ (s : State) (k : Key) (down : Bool), s.nextEvent = .keySet k down →
    ∃ t, step s = .next t ∧ t.keyDown k = down ∧ (∀ j, j ≠ k → t.keyDown j = s.keyDown j) ∧
      SameRegsBut [] s t ∧ SameBytes s t ∧
      t = { s with schedule := s.schedule.tail, out := .silent, key := t.key }) ∧
  (∀ (i : Instr) (s t : State), exec i s = .next t → ∀ k, t.keyDown k = s.keyDown k)

/-- SetRunState moves freely between Running and Paused and into Halted, and never out of Halted. The spec's own decision
D17. -/
def Obligations.SetRunStateNeverLeavesHalted : Prop :=
  ∀ (s : State) (r : RunState), s.nextEvent = .setRunState r →
    ∃ t, step s = .next t ∧ (s.runState = .halted → t.runState = .halted) ∧ (s.runState ≠ .halted → t.runState = r) ∧
      SameRegsBut [] s t ∧ SameBytes s t ∧
      t = { s with schedule := s.schedule.tail, out := .silent, runState := t.runState }

/-- R181: an image of at most 3584 bytes is copied verbatim from 0x200 on and nothing else changes; a longer one, and a source
that cannot be read, leave the machine unmodified; the result is reported. (LoadImage is admitted: `booting`, R195.) -/
def Obligations.LoadImageCopiesTheImage : Prop :=
  ∀ s : State, s.booting = true →
    (∀ bytes, s.nextEvent = .loadImage (some bytes) → bytes.length ≤ 3584 →
      ∃ t, step s = .next t ∧ (∀ (j : Nat) (h : j < bytes.length), t.byteAt (0x200 + j) = bytes[j]) ∧
        SameBytesOutside 0x200 bytes.length s t ∧ SameRegsBut [] s t ∧
        t = { s with schedule := s.schedule.tail, out := .load .ok, mem := t.mem }) ∧
    (∀ bytes, s.nextEvent = .loadImage (some bytes) → 3584 < bytes.length →
      ∃ t, step s = .next t ∧ SameBytes s t ∧
        t = { s with schedule := s.schedule.tail, out := .load .sizeExceeded }) ∧
    (s.nextEvent = .loadImage none →
      ∃ t, step s = .next t ∧ SameBytes s t ∧ t = { s with schedule := s.schedule.tail, out := .load .readFailure })

/-- Every piece of the hardware's state is at its reset value, and memory is zero but for the 80 bytes of the font `f`. -/
def AtResetValues (f : Font) (t : State) : Prop :=
  t.pc = 0x0200#16 ∧ t.runState = .running ∧
  (∀ a : Nat, (h : f.base.val ≤ a ∧ a - f.base.val < 80) → t.byteAt a = f.glyphs[a - f.base.val]'h.2) ∧
  (∀ a : Nat, ¬ (f.base.val ≤ a ∧ a < f.base.val + 80) → t.byteAt a = 0x00#8) ∧
  (∀ r, t.reg r = 0x00#8) ∧ t.index = 0x0000#16 ∧ t.sp.val = 0 ∧ (∀ k : Fin 16, t.stack[k] = 0x0000#16) ∧
  t.dt = 0x00#8 ∧ t.st = 0x00#8 ∧ (∀ y x, t.pixel y x = false) ∧ t.dirty = false ∧ (∀ k, t.keyDown k = false) ∧
  t.opcode = 0x0000#16

/-- From any state, Halted included, the Reset event puts every piece of state at its reset value (70_reset_and_hazards.md
section 1). The zeros of registers, stack, timers, framebuffer, keys and `opcode` are the spec's own decision D16, and that
Reset may come at any time its decision D17; what the model adds (schedule and draws kept, LoadImage admitted again, no
output) is log entries 1, 3, 4 and 5. -/
def Obligations.ResetEventRestoresEverything : Prop :=
  ∀ (s : State) (f : Font), s.nextEvent = .reset f →
    ∃ t, step s = .next t ∧ AtResetValues f t ∧ t.font = f ∧ t.booting = true ∧ t.out = .silent ∧
      t.schedule = s.schedule.tail ∧ t.draws = s.draws

/-- The model's state after reset is at the reset values with the spec's default font (D13, D16): digit 0 lies at address 0,
digit F at 0x4B, and 0x50 reads as zero (vector V183). -/
def Obligations.ResetStateIsAtResetValues : Prop :=
  AtResetValues defaultFont State.reset ∧ MemoryShows State.reset 0x000 [0xF0#8, 0x90#8, 0x90#8, 0x90#8, 0xF0#8] ∧
  MemoryShows State.reset 0x023 [0xF0#8, 0x10#8, 0x20#8, 0x40#8, 0x40#8] ∧
  MemoryShows State.reset 0x04B [0xF0#8, 0x80#8, 0xF0#8, 0x80#8, 0x80#8, 0x00#8]

/-! ## Invariants -/

/-- The reset state meets both invariants. -/
def Obligations.ResetMeetsTheInvariants : Prop := State.reset.MemCanonical ∧ State.reset.PcBounded

/-- Every step keeps the memory in canonical form, so that equal memories stay equal data. -/
def Obligations.StepKeepsMemoryCanonical : Prop := ∀ s t : State, s.MemCanonical → step s = .next t → t.MemCanonical

/-- Every step keeps `pc` at most 0x10FE and every stack entry at most 0x1000, so that the 16-bit `pc` never wraps around
(10_state.md section 2, which derives it). -/
def Obligations.StepKeepsPcBounded : Prop := ∀ s t : State, s.PcBounded → step s = .next t → t.PcBounded

/-! ## Display -/

/-- CLS turns every cell off and sets `dirty`, whatever the cells held (C4), and does nothing else. The word 00E0 is supplied to
the spec from general knowledge (G1). -/
def Obligations.ClsBlanksTheDisplay : Prop :=
  encode .cls = 0x00E0#16 ∧
  ∀ s : State, ∃ t, exec .cls s = .next t ∧ (∀ y x, t.pixel y x = false) ∧ t.dirty = true ∧
    SameRegsBut [] s t ∧ SameBytes s t ∧ t = { s with fb := t.fb, dirty := true }

/-- DRW: when the N bytes at `I` lie within memory (always for N = 0), every cell is exclusive-ored with the clipped sprite
drawn from column VX mod 64 and row VY mod 32, coordinates sampled before `V[15]` is written; `V[15]` is 1 exactly when a set
sprite bit landed on an on cell; `dirty` is set exactly when some set bit was not clipped; else the fatal MemRange and nothing
written. The bit order is the spec's own decision D14, the sampling and the whole-sprite check D15, the range D9. -/
def Obligations.DrwDrawsTheClippedSprite : Prop :=
  ∀ (x y : Reg) (n : Nibble) (s : State),
    (n.toNat = 0 ∨ s.index.toNat + n.toNat - 1 ≤ 0xFFF →
      ∃ t, exec (.drw x y n) s = .next t ∧
        (∀ r c, t.pixel r c =
          (s.pixel r c ^^ s.spritePixel ((s.reg x).toNat % 64) ((s.reg y).toNat % 32) n.toNat r c)) ∧
        ((∃ r c, s.spritePixel ((s.reg x).toNat % 64) ((s.reg y).toNat % 32) n.toNat r c = true ∧ s.pixel r c = true) →
          t.reg 15 = 0x01#8) ∧
        ((∀ r c, s.spritePixel ((s.reg x).toNat % 64) ((s.reg y).toNat % 32) n.toNat r c = true → s.pixel r c = false) →
          t.reg 15 = 0x00#8) ∧
        (t.dirty = true ↔ s.dirty = true ∨
          ∃ r c, s.spritePixel ((s.reg x).toNat % 64) ((s.reg y).toNat % 32) n.toNat r c = true) ∧
        SameRegsBut [15] s t ∧ SameBytes s t ∧ t = { s with v := t.v, fb := t.fb, dirty := t.dirty }) ∧
    (n.toNat ≠ 0 → 0xFFF < s.index.toNat + n.toNat - 1 →
      ∃ t m, exec (.drw x y n) s = .next t ∧ m.toNat = max s.index.toNat 0x1000 ∧
        HaltedWith (.memRange (s.pc - 2#16) (some s.opcode) m) s t)

/-- The source's collision property, in general: the same sprite drawn twice at the same position restores the framebuffer;
where the region was all off before and some set bit is not clipped, the first draw leaves `V[15]` 0 and the second sets it to
1. Bit order and sampling are the spec's own decisions D14 and D15. -/
def Obligations.DrawingTwiceErases : Prop :=
  ∀ (x y : Reg) (n : Nibble) (s : State), n.toNat = 0 ∨ s.index.toNat + n.toNat - 1 ≤ 0xFFF →
    ∃ t u, exec (.drw x y n) s = .next t ∧ exec (.drw x y n) { t with v := s.v } = .next u ∧ u.fb = s.fb ∧
      ((∃ r c, s.spritePixel ((s.reg x).toNat % 64) ((s.reg y).toNat % 32) n.toNat r c = true) →
       (∀ r c, s.spritePixel ((s.reg x).toNat % 64) ((s.reg y).toNat % 32) n.toNat r c = true → s.pixel r c = false) →
       t.reg 15 = 0x00#8 ∧ u.reg 15 = 0x01#8)

/-! ## Control transfer -/

/-- RET: with a return address on the stack it is popped into `pc` and the stale entry stays; with none the fatal underflow,
and `sp` stays 0 and `pc` is what the advance left. How the underflow surfaces is the spec's own decision D8 (C3 for `pc`). -/
def Obligations.RetPopsOrUnderflows : Prop :=
  ∀ s : State,
    (∀ k : Fin 16, s.sp.val = k.val + 1 →
      ∃ t, exec .ret s = .next t ∧ t.pc = s.stack[k] ∧ t.sp.val = k.val ∧ SameRegsBut [] s t ∧ SameBytes s t ∧
        t = { s with pc := t.pc, sp := t.sp }) ∧
    (s.sp.val = 0 → ∃ t, exec .ret s = .next t ∧ HaltedWith (.stackUnderflow (s.pc - 2#16) s.opcode) s t)

/-- R91: JP puts the 12-bit address into `pc` and does nothing else. -/
def Obligations.JpJumpsToItsAddress : Prop :=
  ∀ (nnn : Addr12) (s : State), encode (.jp nnn) = 0x1#4 ++ nnn ∧
    ∃ t, exec (.jp nnn) s = .next t ∧ t.pc.toNat = nnn.toNat ∧ OnlyPc s t

/-- CALL: with a free slot the advanced `pc` is pushed and `pc` is the address; on a full stack the call is skipped with a
report and nothing else, the run state included. What a full stack does is the spec's own decision D7. -/
def Obligations.CallPushesOrReports : Prop :=
  ∀ (nnn : Addr12) (s : State),
    (∀ k : Fin 16, s.sp.val = k.val →
      ∃ t, exec (.call nnn) s = .next t ∧ t.pc.toNat = nnn.toNat ∧ t.sp.val = k.val + 1 ∧ t.stack[k] = s.pc ∧
        (∀ j : Fin 16, j ≠ k → t.stack[j] = s.stack[j]) ∧ SameRegsBut [] s t ∧ SameBytes s t ∧
        t = { s with pc := t.pc, sp := t.sp, stack := t.stack }) ∧
    (s.sp.val = 16 → ∃ t, exec (.call nnn) s = .next t ∧ SameRegsBut [] s t ∧ SameBytes s t ∧
      t = { s with out := .report (.stackOverflow (s.pc - 2#16) s.opcode) })

/-- R93: JP V0 puts the sum of the address and `V[0]` into `pc`; the sum never wraps. -/
def Obligations.JpV0AddsRegisterZero : Prop :=
  ∀ (nnn : Addr12) (s : State), encode (.jpV0 nnn) = 0xB#4 ++ nnn ∧
    ∃ t, exec (.jpV0 nnn) s = .next t ∧ t.pc.toNat = nnn.toNat + (s.reg 0).toNat ∧ OnlyPc s t

/-! ## Skips -/

/-- R101, R102: the two skips on an immediate add 2 more to `pc` exactly when the condition holds, and do nothing else. -/
def Obligations.ImmediateSkips : Prop :=
  ∀ (x : Reg) (nn : Byte) (s : State),
    encode (.seImm x nn) = 0x3#4 ++ regBits x ++ nn ∧ encode (.sneImm x nn) = 0x4#4 ++ regBits x ++ nn ∧
    (∃ t, exec (.seImm x nn) s = .next t ∧ OnlyPc s t ∧
      (s.reg x = nn → t.pc = s.pc + 2#16) ∧ (s.reg x ≠ nn → t.pc = s.pc)) ∧
    (∃ t, exec (.sneImm x nn) s = .next t ∧ OnlyPc s t ∧
      (s.reg x ≠ nn → t.pc = s.pc + 2#16) ∧ (s.reg x = nn → t.pc = s.pc))

/-- The two skips on two registers. That the low nibble is ignored is the spec's own decision D4. -/
def Obligations.RegisterSkips : Prop :=
  ∀ (x y : Reg) (n : Nibble) (s : State),
    encode (.seReg x y n) = 0x5#4 ++ regBits x ++ regBits y ++ n ∧
    encode (.sneReg x y n) = 0x9#4 ++ regBits x ++ regBits y ++ n ∧
    (∃ t, exec (.seReg x y n) s = .next t ∧ OnlyPc s t ∧
      (s.reg x = s.reg y → t.pc = s.pc + 2#16) ∧ (s.reg x ≠ s.reg y → t.pc = s.pc)) ∧
    (∃ t, exec (.sneReg x y n) s = .next t ∧ OnlyPc s t ∧
      (s.reg x ≠ s.reg y → t.pc = s.pc + 2#16) ∧ (s.reg x = s.reg y → t.pc = s.pc))

/-- SKP and SKNP: for a register 0 to 15 the key it numbers decides and nothing but `pc` may change; above 15 either outcome is
possible and one free value is drawn (the spec's own decision D12; the free value is log entry 5). -/
def Obligations.KeySkips : Prop :=
  ∀ (x : Reg) (s : State),
    (∀ k : Key, (s.reg x).toNat = k.val →
      (∃ t, exec (.skp x) s = .next t ∧ OnlyPc s t ∧ t.pc = if s.keyDown k = true then s.pc + 2#16 else s.pc) ∧
      (∃ t, exec (.sknp x) s = .next t ∧ OnlyPc s t ∧ t.pc = if s.keyDown k = true then s.pc else s.pc + 2#16)) ∧
    (15 < (s.reg x).toNat →
      (∃ t, exec (.skp x) s = .next t ∧ (t.pc = s.pc ∨ t.pc = s.pc + 2#16) ∧ SameRegsBut [] s t ∧ SameBytes s t ∧
        t = { s with pc := t.pc, draws := s.draws + 1 }) ∧
      (∃ t, exec (.sknp x) s = .next t ∧ (t.pc = s.pc ∨ t.pc = s.pc + 2#16) ∧ SameRegsBut [] s t ∧ SameBytes s t ∧
        t = { s with pc := t.pc, draws := s.draws + 1 }))

/-! ## Loads, arithmetic, logic, shifts, random -/

/-- R112: LD Vx, NN. -/
def Obligations.LdImmLoadsTheByte : Prop :=
  ∀ (x : Reg) (nn : Byte) (s : State), encode (.ldImm x nn) = 0x6#4 ++ regBits x ++ nn ∧
    ∃ t, exec (.ldImm x nn) s = .next t ∧ t.reg x = nn ∧ OnlyRegs [x] s t

/-- ADD Vx, NN: the sum modulo 256 and no flag, so that `V[15]` changes only as the destination. That there is no flag is the
spec's own decision D6 (C6). -/
def Obligations.AddImmAddsWithoutFlag : Prop :=
  ∀ (x : Reg) (nn : Byte) (s : State),
    ∃ t, exec (.addImm x nn) s = .next t ∧ (t.reg x).toNat = ((s.reg x).toNat + nn.toNat) % 256 ∧ OnlyRegs [x] s t

/-- R114: LD Vx, Vy. -/
def Obligations.LdRegCopies : Prop :=
  ∀ (x y : Reg) (s : State), encode (.ldReg x y) = 0x8#4 ++ regBits x ++ regBits y ++ 0x0#4 ∧
    ∃ t, exec (.ldReg x y) s = .next t ∧ t.reg x = s.reg y ∧ OnlyRegs [x] s t

/-- OR, AND, XOR: bit by bit, no flag, so that `V[15]` changes only as the destination. That there is no flag is the spec's own
decision D6. -/
def Obligations.LogicIsBitwise : Prop :=
  ∀ (x y : Reg) (s : State),
    (∃ t, exec (.orReg x y) s = .next t ∧ OnlyRegs [x] s t ∧
      ∀ k, (t.reg x).getLsbD k = ((s.reg x).getLsbD k || (s.reg y).getLsbD k)) ∧
    (∃ t, exec (.andReg x y) s = .next t ∧ OnlyRegs [x] s t ∧
      ∀ k, (t.reg x).getLsbD k = ((s.reg x).getLsbD k && (s.reg y).getLsbD k)) ∧
    (∃ t, exec (.xorReg x y) s = .next t ∧ OnlyRegs [x] s t ∧
      ∀ k, (t.reg x).getLsbD k = ((s.reg x).getLsbD k ^^ (s.reg y).getLsbD k))

/-- R118: ADD Vx, Vy. The sum modulo 256 and then, last, the carry of the old operands in `V[15]`. -/
def Obligations.AddRegAddsAndSetsCarry : Prop :=
  ∀ (x y : Reg) (s : State), encode (.addReg x y) = 0x8#4 ++ regBits x ++ regBits y ++ 0x4#4 ∧
    ∃ t, exec (.addReg x y) s = .next t ∧
      (x ≠ 15 → (t.reg x).toNat = ((s.reg x).toNat + (s.reg y).toNat) % 256) ∧
      (t.reg 15).toNat = (if (s.reg x).toNat + (s.reg y).toNat > 255 then 1 else 0) ∧ OnlyRegs [x, 15] s t

/-- R119: SUB Vx, Vy. VX minus VY modulo 256 and then, last, not-borrow of the old operands in `V[15]`. -/
def Obligations.SubRegSubtractsAndSetsNotBorrow : Prop :=
  ∀ (x y : Reg) (s : State), encode (.subReg x y) = 0x8#4 ++ regBits x ++ regBits y ++ 0x5#4 ∧
    ∃ t, exec (.subReg x y) s = .next t ∧
      (x ≠ 15 → (t.reg x).toNat = ((s.reg x).toNat + 256 - (s.reg y).toNat) % 256) ∧
      (t.reg 15).toNat = (if (s.reg x).toNat ≥ (s.reg y).toNat then 1 else 0) ∧ OnlyRegs [x, 15] s t

/-- R121: SUBN Vx, Vy. VY minus VX modulo 256 and then, last, its not-borrow in `V[15]`; `V[Y]` is not changed. -/
def Obligations.SubnRegSubtractsTheOtherWay : Prop :=
  ∀ (x y : Reg) (s : State), encode (.subnReg x y) = 0x8#4 ++ regBits x ++ regBits y ++ 0x7#4 ∧
    ∃ t, exec (.subnReg x y) s = .next t ∧
      (x ≠ 15 → (t.reg x).toNat = ((s.reg y).toNat + 256 - (s.reg x).toNat) % 256) ∧
      (t.reg 15).toNat = (if (s.reg y).toNat ≥ (s.reg x).toNat then 1 else 0) ∧ OnlyRegs [x, 15] s t

/-- SHR and SHL shift `V[X]` in place by one, whatever the ignored Y, and put the bit shifted out into `V[15]` last. That
`V[X]` is the register shifted is the spec's own decision D5. -/
def Obligations.ShiftsMoveOneBit : Prop :=
  ∀ (x : Reg) (y : Nibble) (s : State),
    (∃ t, exec (.shr x y) s = .next t ∧ (x ≠ 15 → (t.reg x).toNat = (s.reg x).toNat / 2) ∧
      (t.reg 15).toNat = (s.reg x).toNat % 2 ∧ OnlyRegs [x, 15] s t) ∧
    (∃ t, exec (.shl x y) s = .next t ∧ (x ≠ 15 → (t.reg x).toNat = (s.reg x).toNat * 2 % 256) ∧
      (t.reg 15).toNat = (s.reg x).toNat / 128 ∧ OnlyRegs [x, 15] s t)

/-- RND: the drawn byte masked with NN, no flag; the result is a subset of the bits of NN, and 0 for NN = 0. The byte is a free
value, a new one at each use (the spec's own decision D19, log entry 5): the statement holds whatever it is. -/
def Obligations.RndMasksTheDrawnByte : Prop :=
  ∀ (x : Reg) (nn : Byte) (s : State),
    ∃ t, exec (.rnd x nn) s = .next t ∧ t.reg x = Config.freeByte s.draws &&& nn ∧ t.reg x &&& nn = t.reg x ∧
      (nn = 0x00#8 → t.reg x = 0x00#8) ∧ SameRegsBut [x] s t ∧ SameBytes s t ∧
      t = { s with v := t.v, draws := s.draws + 1 }

/-! ## Index register and memory -/

/-- R130: LD I, NNN. -/
def Obligations.LdIndexLoadsTheAddress : Prop :=
  ∀ (nnn : Addr12) (s : State), encode (.ldIndex nnn) = 0xA#4 ++ nnn ∧
    ∃ t, exec (.ldIndex nnn) s = .next t ∧ t.index.toNat = nnn.toNat ∧ OnlyIndex s t

/-- ADD I, Vx: the sum modulo 65536, not masked to 12 bits, no flag. Keeping all 16 bits is the spec's own decision D10. -/
def Obligations.AddIndexAddsSixteenBits : Prop :=
  ∀ (x : Reg) (s : State),
    ∃ t, exec (.addIndex x) s = .next t ∧ t.index.toNat = (s.index.toNat + (s.reg x).toNat) % 65536 ∧ OnlyIndex s t

/-- LD F, Vx: for a digit 0 to 15 the address of its glyph, FONT_BASE + 5 * digit, and nothing else; above 15 a value nothing
constrains is drawn (the spec's own decision D11, log entry 5) and nothing but `I` changes. -/
def Obligations.LdFontPointsAtTheGlyph : Prop :=
  ∀ (x : Reg) (s : State),
    ((s.reg x).toNat ≤ 15 →
      ∃ t, exec (.ldFont x) s = .next t ∧ t.index.toNat = s.font.base.val + 5 * (s.reg x).toNat ∧ OnlyIndex s t) ∧
    (15 < (s.reg x).toNat →
      ∃ t, exec (.ldFont x) s = .next t ∧ t.index = Config.freeIndex s.draws ∧ SameRegsBut [] s t ∧ SameBytes s t ∧
        t = { s with index := t.index, draws := s.draws + 1 })

/-- LD B, Vx stores the three decimal digits at `I`, `I + 1`, `I + 2`, which add up to the value, or takes MemRange and writes
nothing. What an address above 0xFFF does is the spec's own decision D9. -/
def Obligations.LdBcdStoresThreeDigits : Prop :=
  ∀ (x : Reg) (s : State), encode (.ldBcd x) = 0xF#4 ++ regBits x ++ 0x33#8 ∧
    (s.index.toNat + 2 ≤ 0xFFF →
      ∃ t, exec (.ldBcd x) s = .next t ∧
        (t.byteAt s.index.toNat).toNat = (s.reg x).toNat / 100 ∧
        (t.byteAt (s.index.toNat + 1)).toNat = (s.reg x).toNat / 10 % 10 ∧
        (t.byteAt (s.index.toNat + 2)).toNat = (s.reg x).toNat % 10 ∧
        100 * (t.byteAt s.index.toNat).toNat + 10 * (t.byteAt (s.index.toNat + 1)).toNat +
          (t.byteAt (s.index.toNat + 2)).toNat = (s.reg x).toNat ∧
        OnlyBytes s.index.toNat 3 s t) ∧
    (0xFFF < s.index.toNat + 2 →
      ∃ t m, exec (.ldBcd x) s = .next t ∧ m.toNat = max s.index.toNat 0x1000 ∧
        HaltedWith (.memRange (s.pc - 2#16) (some s.opcode) m) s t)

/-- LD [I], Vx stores V0 to VX at `I` to `I + X` and leaves `I` alone, or takes MemRange and writes nothing. What an address
above 0xFFF does is the spec's own decision D9. -/
def Obligations.StoreRegsStoresTheBlock : Prop :=
  ∀ (x : Reg) (s : State), encode (.storeRegs x) = 0xF#4 ++ regBits x ++ 0x55#8 ∧
    (s.index.toNat + x.val ≤ 0xFFF →
      ∃ t, exec (.storeRegs x) s = .next t ∧ (∀ r : Reg, r ≤ x → t.byteAt (s.index.toNat + r.val) = s.reg r) ∧
        OnlyBytes s.index.toNat (x.val + 1) s t) ∧
    (0xFFF < s.index.toNat + x.val →
      ∃ t m, exec (.storeRegs x) s = .next t ∧ m.toNat = max s.index.toNat 0x1000 ∧
        HaltedWith (.memRange (s.pc - 2#16) (some s.opcode) m) s t)

/-- LD Vx, [I] loads V0 to VX from `I` to `I + X` and leaves `I` and the registers above X alone, or takes MemRange and writes
nothing. What an address above 0xFFF does is the spec's own decision D9. -/
def Obligations.LoadRegsLoadsTheBlock : Prop :=
  ∀ (x : Reg) (s : State), encode (.loadRegs x) = 0xF#4 ++ regBits x ++ 0x65#8 ∧
    (s.index.toNat + x.val ≤ 0xFFF →
      ∃ t, exec (.loadRegs x) s = .next t ∧ (∀ r : Reg, r ≤ x → t.reg r = s.byteAt (s.index.toNat + r.val)) ∧
        (∀ r : Reg, x < r → t.reg r = s.reg r) ∧ SameBytes s t ∧ t = { s with v := t.v }) ∧
    (0xFFF < s.index.toNat + x.val →
      ∃ t m, exec (.loadRegs x) s = .next t ∧ m.toNat = max s.index.toNat 0x1000 ∧
        HaltedWith (.memRange (s.pc - 2#16) (some s.opcode) m) s t)

/-- The source's round-trip property: V0 to VX stored and then, after any change of the registers, loaded from the same address
are what they were. -/
def Obligations.StoreThenLoadRestoresRegisters : Prop :=
  ∀ (x : Reg) (s : State) (v : Vector Byte 16), s.index.toNat + x.val ≤ 0xFFF →
    ∃ t u, exec (.storeRegs x) s = .next t ∧ exec (.loadRegs x) { t with v := v } = .next u ∧
      ∀ r : Reg, r ≤ x → u.reg r = s.reg r

/-- A store is seen by the very next fetch, with no other action: when the block store covers the two bytes at `pc`, the next
step runs the instruction just stored (20_memory.md section 4, which derives it). -/
def Obligations.StoredWordRunsNext : Prop :=
  ∀ (x k l : Reg) (s : State) (i : Instr), l.val = k.val + 1 → l ≤ x → s.index.toNat + x.val ≤ 0xFFF →
    s.pc.toNat = s.index.toNat + k.val → s.runState = .running → s.nextEvent = .cycle →
    decode (s.reg k ++ s.reg l) = .ok i →
    ∃ t, exec (.storeRegs x) s = .next t ∧ t.pc = s.pc ∧ t.handlerStart.opcode = s.reg k ++ s.reg l ∧
      step t = exec i t.handlerStart

/-! ## Timers and keypad -/

/-- R150: LD Vx, DT copies the delay timer and leaves it alone. -/
def Obligations.LdVxDtReadsTheDelayTimer : Prop :=
  ∀ (x : Reg) (s : State), encode (.ldVxDt x) = 0xF#4 ++ regBits x ++ 0x07#8 ∧
    ∃ t, exec (.ldVxDt x) s = .next t ∧ t.reg x = s.dt ∧ t.dt = s.dt ∧ OnlyRegs [x] s t

/-- R151, R152: LD DT, Vx and LD ST, Vx each set one timer and nothing else. -/
def Obligations.TimerLoads : Prop :=
  ∀ (x : Reg) (s : State),
    encode (.ldDtVx x) = 0xF#4 ++ regBits x ++ 0x15#8 ∧ encode (.ldStVx x) = 0xF#4 ++ regBits x ++ 0x18#8 ∧
    (∃ t, exec (.ldDtVx x) s = .next t ∧ t.dt = s.reg x ∧ SameRegsBut [] s t ∧ SameBytes s t ∧
      t = { s with dt := t.dt }) ∧
    (∃ t, exec (.ldStVx x) s = .next t ∧ t.st = s.reg x ∧ (t.toneOn = true ↔ (s.reg x).toNat ≠ 0) ∧
      SameRegsBut [] s t ∧ SameBytes s t ∧ t = { s with st := t.st })

/-- R153: LD Vx, K takes the least key that is down, whatever else is down; with no key down nothing but `pc` changes, which
goes back to the instruction's own address. -/
def Obligations.LdVxKeyTakesTheLeastKey : Prop :=
  ∀ (x : Reg) (s : State), encode (.ldVxKey x) = 0xF#4 ++ regBits x ++ 0x0A#8 ∧
    (∀ k : Key, s.keyDown k = true → (∀ j, j < k → s.keyDown j = false) →
      ∃ t, exec (.ldVxKey x) s = .next t ∧ (t.reg x).toNat = k.val ∧ OnlyRegs [x] s t) ∧
    ((∀ k, s.keyDown k = false) → ∃ t, exec (.ldVxKey x) s = .next t ∧ t.pc = s.pc - 2#16 ∧ OnlyPc s t)
end

