-- ==== Sys2Proof/Laws/State.lean ====
section
/-!
SUPPORT. One lemma per field and named update of State, true by rfl, so that no later proof unfolds a record update; then the
register file, the conditional skip, and the push and pop of the call stack.
-/

namespace Sys2Proof.Machine

/-! ### setReg -/

@[simp] theorem State.setReg_pc (x : Reg) (b : Byte) (s : State) : (s.setReg x b).pc = s.pc := rfl
@[simp] theorem State.setReg_index (x : Reg) (b : Byte) (s : State) : (s.setReg x b).index = s.index := rfl
@[simp] theorem State.setReg_stack (x : Reg) (b : Byte) (s : State) : (s.setReg x b).stack = s.stack := rfl
@[simp] theorem State.setReg_sp (x : Reg) (b : Byte) (s : State) : (s.setReg x b).sp = s.sp := rfl
@[simp] theorem State.setReg_dt (x : Reg) (b : Byte) (s : State) : (s.setReg x b).dt = s.dt := rfl
@[simp] theorem State.setReg_st (x : Reg) (b : Byte) (s : State) : (s.setReg x b).st = s.st := rfl
@[simp] theorem State.setReg_runState (x : Reg) (b : Byte) (s : State) : (s.setReg x b).runState = s.runState := rfl
@[simp] theorem State.setReg_dirty (x : Reg) (b : Byte) (s : State) : (s.setReg x b).dirty = s.dirty := rfl
@[simp] theorem State.setReg_opcode (x : Reg) (b : Byte) (s : State) : (s.setReg x b).opcode = s.opcode := rfl
@[simp] theorem State.setReg_fb (x : Reg) (b : Byte) (s : State) : (s.setReg x b).fb = s.fb := rfl
@[simp] theorem State.setReg_key (x : Reg) (b : Byte) (s : State) : (s.setReg x b).key = s.key := rfl
@[simp] theorem State.setReg_mem (x : Reg) (b : Byte) (s : State) : (s.setReg x b).mem = s.mem := rfl
@[simp] theorem State.setReg_font (x : Reg) (b : Byte) (s : State) : (s.setReg x b).font = s.font := rfl
@[simp] theorem State.setReg_out (x : Reg) (b : Byte) (s : State) : (s.setReg x b).out = s.out := rfl
@[simp] theorem State.setReg_schedule (x : Reg) (b : Byte) (s : State) : (s.setReg x b).schedule = s.schedule := rfl
@[simp] theorem State.setReg_booting (x : Reg) (b : Byte) (s : State) : (s.setReg x b).booting = s.booting := rfl
@[simp] theorem State.setReg_draws (x : Reg) (b : Byte) (s : State) : (s.setReg x b).draws = s.draws := rfl

/-! ### setPc -/

@[simp] theorem State.setPc_v (a : Word) (s : State) : (s.setPc a).v = s.v := rfl
@[simp] theorem State.setPc_pc (a : Word) (s : State) : (s.setPc a).pc = a := rfl
@[simp] theorem State.setPc_index (a : Word) (s : State) : (s.setPc a).index = s.index := rfl
@[simp] theorem State.setPc_stack (a : Word) (s : State) : (s.setPc a).stack = s.stack := rfl
@[simp] theorem State.setPc_sp (a : Word) (s : State) : (s.setPc a).sp = s.sp := rfl
@[simp] theorem State.setPc_dt (a : Word) (s : State) : (s.setPc a).dt = s.dt := rfl
@[simp] theorem State.setPc_st (a : Word) (s : State) : (s.setPc a).st = s.st := rfl
@[simp] theorem State.setPc_runState (a : Word) (s : State) : (s.setPc a).runState = s.runState := rfl
@[simp] theorem State.setPc_dirty (a : Word) (s : State) : (s.setPc a).dirty = s.dirty := rfl
@[simp] theorem State.setPc_opcode (a : Word) (s : State) : (s.setPc a).opcode = s.opcode := rfl
@[simp] theorem State.setPc_fb (a : Word) (s : State) : (s.setPc a).fb = s.fb := rfl
@[simp] theorem State.setPc_key (a : Word) (s : State) : (s.setPc a).key = s.key := rfl
@[simp] theorem State.setPc_mem (a : Word) (s : State) : (s.setPc a).mem = s.mem := rfl
@[simp] theorem State.setPc_font (a : Word) (s : State) : (s.setPc a).font = s.font := rfl
@[simp] theorem State.setPc_out (a : Word) (s : State) : (s.setPc a).out = s.out := rfl
@[simp] theorem State.setPc_schedule (a : Word) (s : State) : (s.setPc a).schedule = s.schedule := rfl
@[simp] theorem State.setPc_booting (a : Word) (s : State) : (s.setPc a).booting = s.booting := rfl
@[simp] theorem State.setPc_draws (a : Word) (s : State) : (s.setPc a).draws = s.draws := rfl

/-! ### setIndex -/

@[simp] theorem State.setIndex_v (a : Word) (s : State) : (s.setIndex a).v = s.v := rfl
@[simp] theorem State.setIndex_pc (a : Word) (s : State) : (s.setIndex a).pc = s.pc := rfl
@[simp] theorem State.setIndex_index (a : Word) (s : State) : (s.setIndex a).index = a := rfl
@[simp] theorem State.setIndex_stack (a : Word) (s : State) : (s.setIndex a).stack = s.stack := rfl
@[simp] theorem State.setIndex_sp (a : Word) (s : State) : (s.setIndex a).sp = s.sp := rfl
@[simp] theorem State.setIndex_dt (a : Word) (s : State) : (s.setIndex a).dt = s.dt := rfl
@[simp] theorem State.setIndex_st (a : Word) (s : State) : (s.setIndex a).st = s.st := rfl
@[simp] theorem State.setIndex_runState (a : Word) (s : State) : (s.setIndex a).runState = s.runState := rfl
@[simp] theorem State.setIndex_dirty (a : Word) (s : State) : (s.setIndex a).dirty = s.dirty := rfl
@[simp] theorem State.setIndex_opcode (a : Word) (s : State) : (s.setIndex a).opcode = s.opcode := rfl
@[simp] theorem State.setIndex_fb (a : Word) (s : State) : (s.setIndex a).fb = s.fb := rfl
@[simp] theorem State.setIndex_key (a : Word) (s : State) : (s.setIndex a).key = s.key := rfl
@[simp] theorem State.setIndex_mem (a : Word) (s : State) : (s.setIndex a).mem = s.mem := rfl
@[simp] theorem State.setIndex_font (a : Word) (s : State) : (s.setIndex a).font = s.font := rfl
@[simp] theorem State.setIndex_out (a : Word) (s : State) : (s.setIndex a).out = s.out := rfl
@[simp] theorem State.setIndex_schedule (a : Word) (s : State) : (s.setIndex a).schedule = s.schedule := rfl
@[simp] theorem State.setIndex_booting (a : Word) (s : State) : (s.setIndex a).booting = s.booting := rfl
@[simp] theorem State.setIndex_draws (a : Word) (s : State) : (s.setIndex a).draws = s.draws := rfl

/-! ### setDt -/

@[simp] theorem State.setDt_v (b : Byte) (s : State) : (s.setDt b).v = s.v := rfl
@[simp] theorem State.setDt_pc (b : Byte) (s : State) : (s.setDt b).pc = s.pc := rfl
@[simp] theorem State.setDt_index (b : Byte) (s : State) : (s.setDt b).index = s.index := rfl
@[simp] theorem State.setDt_stack (b : Byte) (s : State) : (s.setDt b).stack = s.stack := rfl
@[simp] theorem State.setDt_sp (b : Byte) (s : State) : (s.setDt b).sp = s.sp := rfl
@[simp] theorem State.setDt_dt (b : Byte) (s : State) : (s.setDt b).dt = b := rfl
@[simp] theorem State.setDt_st (b : Byte) (s : State) : (s.setDt b).st = s.st := rfl
@[simp] theorem State.setDt_runState (b : Byte) (s : State) : (s.setDt b).runState = s.runState := rfl
@[simp] theorem State.setDt_dirty (b : Byte) (s : State) : (s.setDt b).dirty = s.dirty := rfl
@[simp] theorem State.setDt_opcode (b : Byte) (s : State) : (s.setDt b).opcode = s.opcode := rfl
@[simp] theorem State.setDt_fb (b : Byte) (s : State) : (s.setDt b).fb = s.fb := rfl
@[simp] theorem State.setDt_key (b : Byte) (s : State) : (s.setDt b).key = s.key := rfl
@[simp] theorem State.setDt_mem (b : Byte) (s : State) : (s.setDt b).mem = s.mem := rfl
@[simp] theorem State.setDt_font (b : Byte) (s : State) : (s.setDt b).font = s.font := rfl
@[simp] theorem State.setDt_out (b : Byte) (s : State) : (s.setDt b).out = s.out := rfl
@[simp] theorem State.setDt_schedule (b : Byte) (s : State) : (s.setDt b).schedule = s.schedule := rfl
@[simp] theorem State.setDt_booting (b : Byte) (s : State) : (s.setDt b).booting = s.booting := rfl
@[simp] theorem State.setDt_draws (b : Byte) (s : State) : (s.setDt b).draws = s.draws := rfl

/-! ### setSt -/

@[simp] theorem State.setSt_v (b : Byte) (s : State) : (s.setSt b).v = s.v := rfl
@[simp] theorem State.setSt_pc (b : Byte) (s : State) : (s.setSt b).pc = s.pc := rfl
@[simp] theorem State.setSt_index (b : Byte) (s : State) : (s.setSt b).index = s.index := rfl
@[simp] theorem State.setSt_stack (b : Byte) (s : State) : (s.setSt b).stack = s.stack := rfl
@[simp] theorem State.setSt_sp (b : Byte) (s : State) : (s.setSt b).sp = s.sp := rfl
@[simp] theorem State.setSt_dt (b : Byte) (s : State) : (s.setSt b).dt = s.dt := rfl
@[simp] theorem State.setSt_st (b : Byte) (s : State) : (s.setSt b).st = b := rfl
@[simp] theorem State.setSt_runState (b : Byte) (s : State) : (s.setSt b).runState = s.runState := rfl
@[simp] theorem State.setSt_dirty (b : Byte) (s : State) : (s.setSt b).dirty = s.dirty := rfl
@[simp] theorem State.setSt_opcode (b : Byte) (s : State) : (s.setSt b).opcode = s.opcode := rfl
@[simp] theorem State.setSt_fb (b : Byte) (s : State) : (s.setSt b).fb = s.fb := rfl
@[simp] theorem State.setSt_key (b : Byte) (s : State) : (s.setSt b).key = s.key := rfl
@[simp] theorem State.setSt_mem (b : Byte) (s : State) : (s.setSt b).mem = s.mem := rfl
@[simp] theorem State.setSt_font (b : Byte) (s : State) : (s.setSt b).font = s.font := rfl
@[simp] theorem State.setSt_out (b : Byte) (s : State) : (s.setSt b).out = s.out := rfl
@[simp] theorem State.setSt_schedule (b : Byte) (s : State) : (s.setSt b).schedule = s.schedule := rfl
@[simp] theorem State.setSt_booting (b : Byte) (s : State) : (s.setSt b).booting = s.booting := rfl
@[simp] theorem State.setSt_draws (b : Byte) (s : State) : (s.setSt b).draws = s.draws := rfl

/-! ### writeByte -/

@[simp] theorem State.writeByte_v (a : Nat) (b : Byte) (s : State) : (s.writeByte a b).v = s.v := rfl
@[simp] theorem State.writeByte_pc (a : Nat) (b : Byte) (s : State) : (s.writeByte a b).pc = s.pc := rfl
@[simp] theorem State.writeByte_index (a : Nat) (b : Byte) (s : State) : (s.writeByte a b).index = s.index := rfl
@[simp] theorem State.writeByte_stack (a : Nat) (b : Byte) (s : State) : (s.writeByte a b).stack = s.stack := rfl
@[simp] theorem State.writeByte_sp (a : Nat) (b : Byte) (s : State) : (s.writeByte a b).sp = s.sp := rfl
@[simp] theorem State.writeByte_dt (a : Nat) (b : Byte) (s : State) : (s.writeByte a b).dt = s.dt := rfl
@[simp] theorem State.writeByte_st (a : Nat) (b : Byte) (s : State) : (s.writeByte a b).st = s.st := rfl
@[simp] theorem State.writeByte_runState (a : Nat) (b : Byte) (s : State) : (s.writeByte a b).runState = s.runState := rfl
@[simp] theorem State.writeByte_dirty (a : Nat) (b : Byte) (s : State) : (s.writeByte a b).dirty = s.dirty := rfl
@[simp] theorem State.writeByte_opcode (a : Nat) (b : Byte) (s : State) : (s.writeByte a b).opcode = s.opcode := rfl
@[simp] theorem State.writeByte_fb (a : Nat) (b : Byte) (s : State) : (s.writeByte a b).fb = s.fb := rfl
@[simp] theorem State.writeByte_key (a : Nat) (b : Byte) (s : State) : (s.writeByte a b).key = s.key := rfl
@[simp] theorem State.writeByte_mem (a : Nat) (b : Byte) (s : State) : (s.writeByte a b).mem = Memory.write s.font a b s.mem := rfl
@[simp] theorem State.writeByte_font (a : Nat) (b : Byte) (s : State) : (s.writeByte a b).font = s.font := rfl
@[simp] theorem State.writeByte_out (a : Nat) (b : Byte) (s : State) : (s.writeByte a b).out = s.out := rfl
@[simp] theorem State.writeByte_schedule (a : Nat) (b : Byte) (s : State) : (s.writeByte a b).schedule = s.schedule := rfl
@[simp] theorem State.writeByte_booting (a : Nat) (b : Byte) (s : State) : (s.writeByte a b).booting = s.booting := rfl
@[simp] theorem State.writeByte_draws (a : Nat) (b : Byte) (s : State) : (s.writeByte a b).draws = s.draws := rfl

/-! ### drawn -/

@[simp] theorem State.drawn_v (s : State) : (s.drawn).v = s.v := rfl
@[simp] theorem State.drawn_pc (s : State) : (s.drawn).pc = s.pc := rfl
@[simp] theorem State.drawn_index (s : State) : (s.drawn).index = s.index := rfl
@[simp] theorem State.drawn_stack (s : State) : (s.drawn).stack = s.stack := rfl
@[simp] theorem State.drawn_sp (s : State) : (s.drawn).sp = s.sp := rfl
@[simp] theorem State.drawn_dt (s : State) : (s.drawn).dt = s.dt := rfl
@[simp] theorem State.drawn_st (s : State) : (s.drawn).st = s.st := rfl
@[simp] theorem State.drawn_runState (s : State) : (s.drawn).runState = s.runState := rfl
@[simp] theorem State.drawn_dirty (s : State) : (s.drawn).dirty = s.dirty := rfl
@[simp] theorem State.drawn_opcode (s : State) : (s.drawn).opcode = s.opcode := rfl
@[simp] theorem State.drawn_fb (s : State) : (s.drawn).fb = s.fb := rfl
@[simp] theorem State.drawn_key (s : State) : (s.drawn).key = s.key := rfl
@[simp] theorem State.drawn_mem (s : State) : (s.drawn).mem = s.mem := rfl
@[simp] theorem State.drawn_font (s : State) : (s.drawn).font = s.font := rfl
@[simp] theorem State.drawn_out (s : State) : (s.drawn).out = s.out := rfl
@[simp] theorem State.drawn_schedule (s : State) : (s.drawn).schedule = s.schedule := rfl
@[simp] theorem State.drawn_booting (s : State) : (s.drawn).booting = s.booting := rfl
@[simp] theorem State.drawn_draws (s : State) : (s.drawn).draws = s.draws + 1 := rfl

/-! ### enterFatal -/

@[simp] theorem State.enterFatal_v (r : Report) (s : State) : (s.enterFatal r).v = s.v := rfl
@[simp] theorem State.enterFatal_pc (r : Report) (s : State) : (s.enterFatal r).pc = s.pc := rfl
@[simp] theorem State.enterFatal_index (r : Report) (s : State) : (s.enterFatal r).index = s.index := rfl
@[simp] theorem State.enterFatal_stack (r : Report) (s : State) : (s.enterFatal r).stack = s.stack := rfl
@[simp] theorem State.enterFatal_sp (r : Report) (s : State) : (s.enterFatal r).sp = s.sp := rfl
@[simp] theorem State.enterFatal_dt (r : Report) (s : State) : (s.enterFatal r).dt = s.dt := rfl
@[simp] theorem State.enterFatal_st (r : Report) (s : State) : (s.enterFatal r).st = s.st := rfl
@[simp] theorem State.enterFatal_runState (r : Report) (s : State) : (s.enterFatal r).runState = .halted := rfl
@[simp] theorem State.enterFatal_dirty (r : Report) (s : State) : (s.enterFatal r).dirty = s.dirty := rfl
@[simp] theorem State.enterFatal_opcode (r : Report) (s : State) : (s.enterFatal r).opcode = s.opcode := rfl
@[simp] theorem State.enterFatal_fb (r : Report) (s : State) : (s.enterFatal r).fb = s.fb := rfl
@[simp] theorem State.enterFatal_key (r : Report) (s : State) : (s.enterFatal r).key = s.key := rfl
@[simp] theorem State.enterFatal_mem (r : Report) (s : State) : (s.enterFatal r).mem = s.mem := rfl
@[simp] theorem State.enterFatal_font (r : Report) (s : State) : (s.enterFatal r).font = s.font := rfl
@[simp] theorem State.enterFatal_out (r : Report) (s : State) : (s.enterFatal r).out = .report r := rfl
@[simp] theorem State.enterFatal_schedule (r : Report) (s : State) : (s.enterFatal r).schedule = s.schedule := rfl
@[simp] theorem State.enterFatal_booting (r : Report) (s : State) : (s.enterFatal r).booting = s.booting := rfl
@[simp] theorem State.enterFatal_draws (r : Report) (s : State) : (s.enterFatal r).draws = s.draws := rfl

/-! ### reportCondition -/

@[simp] theorem State.reportCondition_v (r : Report) (s : State) : (s.reportCondition r).v = s.v := rfl
@[simp] theorem State.reportCondition_pc (r : Report) (s : State) : (s.reportCondition r).pc = s.pc := rfl
@[simp] theorem State.reportCondition_index (r : Report) (s : State) : (s.reportCondition r).index = s.index := rfl
@[simp] theorem State.reportCondition_stack (r : Report) (s : State) : (s.reportCondition r).stack = s.stack := rfl
@[simp] theorem State.reportCondition_sp (r : Report) (s : State) : (s.reportCondition r).sp = s.sp := rfl
@[simp] theorem State.reportCondition_dt (r : Report) (s : State) : (s.reportCondition r).dt = s.dt := rfl
@[simp] theorem State.reportCondition_st (r : Report) (s : State) : (s.reportCondition r).st = s.st := rfl
@[simp] theorem State.reportCondition_runState (r : Report) (s : State) : (s.reportCondition r).runState = s.runState := rfl
@[simp] theorem State.reportCondition_dirty (r : Report) (s : State) : (s.reportCondition r).dirty = s.dirty := rfl
@[simp] theorem State.reportCondition_opcode (r : Report) (s : State) : (s.reportCondition r).opcode = s.opcode := rfl
@[simp] theorem State.reportCondition_fb (r : Report) (s : State) : (s.reportCondition r).fb = s.fb := rfl
@[simp] theorem State.reportCondition_key (r : Report) (s : State) : (s.reportCondition r).key = s.key := rfl
@[simp] theorem State.reportCondition_mem (r : Report) (s : State) : (s.reportCondition r).mem = s.mem := rfl
@[simp] theorem State.reportCondition_font (r : Report) (s : State) : (s.reportCondition r).font = s.font := rfl
@[simp] theorem State.reportCondition_out (r : Report) (s : State) : (s.reportCondition r).out = .report r := rfl
@[simp] theorem State.reportCondition_schedule (r : Report) (s : State) : (s.reportCondition r).schedule = s.schedule := rfl
@[simp] theorem State.reportCondition_booting (r : Report) (s : State) : (s.reportCondition r).booting = s.booting := rfl
@[simp] theorem State.reportCondition_draws (r : Report) (s : State) : (s.reportCondition r).draws = s.draws := rfl

/-! ### fetched -/

@[simp] theorem State.fetched_v (s : State) : (s.fetched).v = s.v := rfl
@[simp] theorem State.fetched_pc (s : State) : (s.fetched).pc = s.pc + 2#16 := rfl
@[simp] theorem State.fetched_index (s : State) : (s.fetched).index = s.index := rfl
@[simp] theorem State.fetched_stack (s : State) : (s.fetched).stack = s.stack := rfl
@[simp] theorem State.fetched_sp (s : State) : (s.fetched).sp = s.sp := rfl
@[simp] theorem State.fetched_dt (s : State) : (s.fetched).dt = s.dt := rfl
@[simp] theorem State.fetched_st (s : State) : (s.fetched).st = s.st := rfl
@[simp] theorem State.fetched_runState (s : State) : (s.fetched).runState = s.runState := rfl
@[simp] theorem State.fetched_dirty (s : State) : (s.fetched).dirty = s.dirty := rfl
@[simp] theorem State.fetched_opcode (s : State) : (s.fetched).opcode = s.fetchWord := rfl
@[simp] theorem State.fetched_fb (s : State) : (s.fetched).fb = s.fb := rfl
@[simp] theorem State.fetched_key (s : State) : (s.fetched).key = s.key := rfl
@[simp] theorem State.fetched_mem (s : State) : (s.fetched).mem = s.mem := rfl
@[simp] theorem State.fetched_font (s : State) : (s.fetched).font = s.font := rfl
@[simp] theorem State.fetched_out (s : State) : (s.fetched).out = s.out := rfl
@[simp] theorem State.fetched_schedule (s : State) : (s.fetched).schedule = s.schedule := rfl
@[simp] theorem State.fetched_booting (s : State) : (s.fetched).booting = s.booting := rfl
@[simp] theorem State.fetched_draws (s : State) : (s.fetched).draws = s.draws := rfl

/-! ### beginCycle -/

@[simp] theorem State.beginCycle_v (s : State) : (s.beginCycle).v = s.v := rfl
@[simp] theorem State.beginCycle_pc (s : State) : (s.beginCycle).pc = s.pc := rfl
@[simp] theorem State.beginCycle_index (s : State) : (s.beginCycle).index = s.index := rfl
@[simp] theorem State.beginCycle_stack (s : State) : (s.beginCycle).stack = s.stack := rfl
@[simp] theorem State.beginCycle_sp (s : State) : (s.beginCycle).sp = s.sp := rfl
@[simp] theorem State.beginCycle_dt (s : State) : (s.beginCycle).dt = s.dt := rfl
@[simp] theorem State.beginCycle_st (s : State) : (s.beginCycle).st = s.st := rfl
@[simp] theorem State.beginCycle_runState (s : State) : (s.beginCycle).runState = s.runState := rfl
@[simp] theorem State.beginCycle_dirty (s : State) : (s.beginCycle).dirty = s.dirty := rfl
@[simp] theorem State.beginCycle_opcode (s : State) : (s.beginCycle).opcode = s.opcode := rfl
@[simp] theorem State.beginCycle_fb (s : State) : (s.beginCycle).fb = s.fb := rfl
@[simp] theorem State.beginCycle_key (s : State) : (s.beginCycle).key = s.key := rfl
@[simp] theorem State.beginCycle_mem (s : State) : (s.beginCycle).mem = s.mem := rfl
@[simp] theorem State.beginCycle_font (s : State) : (s.beginCycle).font = s.font := rfl
@[simp] theorem State.beginCycle_out (s : State) : (s.beginCycle).out = .report .none := rfl
@[simp] theorem State.beginCycle_schedule (s : State) : (s.beginCycle).schedule = s.schedule := rfl
@[simp] theorem State.beginCycle_booting (s : State) : (s.beginCycle).booting = false := rfl
@[simp] theorem State.beginCycle_draws (s : State) : (s.beginCycle).draws = s.draws := rfl

/-! ### silently -/

@[simp] theorem State.silently_v (s : State) : (s.silently).v = s.v := rfl
@[simp] theorem State.silently_pc (s : State) : (s.silently).pc = s.pc := rfl
@[simp] theorem State.silently_index (s : State) : (s.silently).index = s.index := rfl
@[simp] theorem State.silently_stack (s : State) : (s.silently).stack = s.stack := rfl
@[simp] theorem State.silently_sp (s : State) : (s.silently).sp = s.sp := rfl
@[simp] theorem State.silently_dt (s : State) : (s.silently).dt = s.dt := rfl
@[simp] theorem State.silently_st (s : State) : (s.silently).st = s.st := rfl
@[simp] theorem State.silently_runState (s : State) : (s.silently).runState = s.runState := rfl
@[simp] theorem State.silently_dirty (s : State) : (s.silently).dirty = s.dirty := rfl
@[simp] theorem State.silently_opcode (s : State) : (s.silently).opcode = s.opcode := rfl
@[simp] theorem State.silently_fb (s : State) : (s.silently).fb = s.fb := rfl
@[simp] theorem State.silently_key (s : State) : (s.silently).key = s.key := rfl
@[simp] theorem State.silently_mem (s : State) : (s.silently).mem = s.mem := rfl
@[simp] theorem State.silently_font (s : State) : (s.silently).font = s.font := rfl
@[simp] theorem State.silently_out (s : State) : (s.silently).out = .silent := rfl
@[simp] theorem State.silently_schedule (s : State) : (s.silently).schedule = s.schedule := rfl
@[simp] theorem State.silently_booting (s : State) : (s.silently).booting = s.booting := rfl
@[simp] theorem State.silently_draws (s : State) : (s.silently).draws = s.draws := rfl

/-! ### popEvent -/

@[simp] theorem State.popEvent_v (s : State) : (s.popEvent).v = s.v := rfl
@[simp] theorem State.popEvent_pc (s : State) : (s.popEvent).pc = s.pc := rfl
@[simp] theorem State.popEvent_index (s : State) : (s.popEvent).index = s.index := rfl
@[simp] theorem State.popEvent_stack (s : State) : (s.popEvent).stack = s.stack := rfl
@[simp] theorem State.popEvent_sp (s : State) : (s.popEvent).sp = s.sp := rfl
@[simp] theorem State.popEvent_dt (s : State) : (s.popEvent).dt = s.dt := rfl
@[simp] theorem State.popEvent_st (s : State) : (s.popEvent).st = s.st := rfl
@[simp] theorem State.popEvent_runState (s : State) : (s.popEvent).runState = s.runState := rfl
@[simp] theorem State.popEvent_dirty (s : State) : (s.popEvent).dirty = s.dirty := rfl
@[simp] theorem State.popEvent_opcode (s : State) : (s.popEvent).opcode = s.opcode := rfl
@[simp] theorem State.popEvent_fb (s : State) : (s.popEvent).fb = s.fb := rfl
@[simp] theorem State.popEvent_key (s : State) : (s.popEvent).key = s.key := rfl
@[simp] theorem State.popEvent_mem (s : State) : (s.popEvent).mem = s.mem := rfl
@[simp] theorem State.popEvent_font (s : State) : (s.popEvent).font = s.font := rfl
@[simp] theorem State.popEvent_out (s : State) : (s.popEvent).out = s.out := rfl
@[simp] theorem State.popEvent_schedule (s : State) : (s.popEvent).schedule = s.schedule.tail := rfl
@[simp] theorem State.popEvent_booting (s : State) : (s.popEvent).booting = s.booting := rfl
@[simp] theorem State.popEvent_draws (s : State) : (s.popEvent).draws = s.draws := rfl

/-! ### putCanvas -/

@[simp] theorem State.putCanvas_pc (c : Canvas) (s : State) : (s.putCanvas c).pc = s.pc := rfl
@[simp] theorem State.putCanvas_index (c : Canvas) (s : State) : (s.putCanvas c).index = s.index := rfl
@[simp] theorem State.putCanvas_stack (c : Canvas) (s : State) : (s.putCanvas c).stack = s.stack := rfl
@[simp] theorem State.putCanvas_sp (c : Canvas) (s : State) : (s.putCanvas c).sp = s.sp := rfl
@[simp] theorem State.putCanvas_dt (c : Canvas) (s : State) : (s.putCanvas c).dt = s.dt := rfl
@[simp] theorem State.putCanvas_st (c : Canvas) (s : State) : (s.putCanvas c).st = s.st := rfl
@[simp] theorem State.putCanvas_runState (c : Canvas) (s : State) : (s.putCanvas c).runState = s.runState := rfl
@[simp] theorem State.putCanvas_dirty (c : Canvas) (s : State) : (s.putCanvas c).dirty = (s.dirty || c.changed) := rfl
@[simp] theorem State.putCanvas_opcode (c : Canvas) (s : State) : (s.putCanvas c).opcode = s.opcode := rfl
@[simp] theorem State.putCanvas_fb (c : Canvas) (s : State) : (s.putCanvas c).fb = c.fb := rfl
@[simp] theorem State.putCanvas_key (c : Canvas) (s : State) : (s.putCanvas c).key = s.key := rfl
@[simp] theorem State.putCanvas_mem (c : Canvas) (s : State) : (s.putCanvas c).mem = s.mem := rfl
@[simp] theorem State.putCanvas_font (c : Canvas) (s : State) : (s.putCanvas c).font = s.font := rfl
@[simp] theorem State.putCanvas_out (c : Canvas) (s : State) : (s.putCanvas c).out = s.out := rfl
@[simp] theorem State.putCanvas_schedule (c : Canvas) (s : State) : (s.putCanvas c).schedule = s.schedule := rfl
@[simp] theorem State.putCanvas_booting (c : Canvas) (s : State) : (s.putCanvas c).booting = s.booting := rfl
@[simp] theorem State.putCanvas_draws (c : Canvas) (s : State) : (s.putCanvas c).draws = s.draws := rfl

/-! ### push -/

@[simp] theorem State.push_v (s : State) (h : s.sp.val < 16) : (s.push h).v = s.v := rfl
@[simp] theorem State.push_pc (s : State) (h : s.sp.val < 16) : (s.push h).pc = s.pc := rfl
@[simp] theorem State.push_index (s : State) (h : s.sp.val < 16) : (s.push h).index = s.index := rfl
@[simp] theorem State.push_dt (s : State) (h : s.sp.val < 16) : (s.push h).dt = s.dt := rfl
@[simp] theorem State.push_st (s : State) (h : s.sp.val < 16) : (s.push h).st = s.st := rfl
@[simp] theorem State.push_runState (s : State) (h : s.sp.val < 16) : (s.push h).runState = s.runState := rfl
@[simp] theorem State.push_dirty (s : State) (h : s.sp.val < 16) : (s.push h).dirty = s.dirty := rfl
@[simp] theorem State.push_opcode (s : State) (h : s.sp.val < 16) : (s.push h).opcode = s.opcode := rfl
@[simp] theorem State.push_fb (s : State) (h : s.sp.val < 16) : (s.push h).fb = s.fb := rfl
@[simp] theorem State.push_key (s : State) (h : s.sp.val < 16) : (s.push h).key = s.key := rfl
@[simp] theorem State.push_mem (s : State) (h : s.sp.val < 16) : (s.push h).mem = s.mem := rfl
@[simp] theorem State.push_font (s : State) (h : s.sp.val < 16) : (s.push h).font = s.font := rfl
@[simp] theorem State.push_out (s : State) (h : s.sp.val < 16) : (s.push h).out = s.out := rfl
@[simp] theorem State.push_schedule (s : State) (h : s.sp.val < 16) : (s.push h).schedule = s.schedule := rfl
@[simp] theorem State.push_booting (s : State) (h : s.sp.val < 16) : (s.push h).booting = s.booting := rfl
@[simp] theorem State.push_draws (s : State) (h : s.sp.val < 16) : (s.push h).draws = s.draws := rfl

/-! ### pop -/

@[simp] theorem State.pop_v (s : State) (h : s.sp.val ≠ 0) : (s.pop h).v = s.v := rfl
@[simp] theorem State.pop_index (s : State) (h : s.sp.val ≠ 0) : (s.pop h).index = s.index := rfl
@[simp] theorem State.pop_stack (s : State) (h : s.sp.val ≠ 0) : (s.pop h).stack = s.stack := rfl
@[simp] theorem State.pop_dt (s : State) (h : s.sp.val ≠ 0) : (s.pop h).dt = s.dt := rfl
@[simp] theorem State.pop_st (s : State) (h : s.sp.val ≠ 0) : (s.pop h).st = s.st := rfl
@[simp] theorem State.pop_runState (s : State) (h : s.sp.val ≠ 0) : (s.pop h).runState = s.runState := rfl
@[simp] theorem State.pop_dirty (s : State) (h : s.sp.val ≠ 0) : (s.pop h).dirty = s.dirty := rfl
@[simp] theorem State.pop_opcode (s : State) (h : s.sp.val ≠ 0) : (s.pop h).opcode = s.opcode := rfl
@[simp] theorem State.pop_fb (s : State) (h : s.sp.val ≠ 0) : (s.pop h).fb = s.fb := rfl
@[simp] theorem State.pop_key (s : State) (h : s.sp.val ≠ 0) : (s.pop h).key = s.key := rfl
@[simp] theorem State.pop_mem (s : State) (h : s.sp.val ≠ 0) : (s.pop h).mem = s.mem := rfl
@[simp] theorem State.pop_font (s : State) (h : s.sp.val ≠ 0) : (s.pop h).font = s.font := rfl
@[simp] theorem State.pop_out (s : State) (h : s.sp.val ≠ 0) : (s.pop h).out = s.out := rfl
@[simp] theorem State.pop_schedule (s : State) (h : s.sp.val ≠ 0) : (s.pop h).schedule = s.schedule := rfl
@[simp] theorem State.pop_booting (s : State) (h : s.sp.val ≠ 0) : (s.pop h).booting = s.booting := rfl
@[simp] theorem State.pop_draws (s : State) (h : s.sp.val ≠ 0) : (s.pop h).draws = s.draws := rfl

@[simp] theorem State.push_sp (s : State) (h : s.sp.val < 16) : (s.push h).sp.val = s.sp.val + 1 := rfl

@[simp] theorem State.push_stack (s : State) (h : s.sp.val < 16) (k : Fin 16) :
    (s.push h).stack[k] = if k.val = s.sp.val then s.pc else s.stack[k] := by
  simp [State.push, Vector.getElem_set, eq_comm]

@[simp] theorem State.pop_sp (s : State) (h : s.sp.val ≠ 0) : (s.pop h).sp.val = s.sp.val - 1 := rfl

@[simp] theorem State.pop_pc (s : State) (h : s.sp.val ≠ 0) :
    (s.pop h).pc = s.stack[s.sp.val - 1]'(by have := s.sp.isLt; omega) := rfl

/-! ### The conditional skip changes `pc` alone -/

theorem State.skipIf_eq (c : Bool) (s : State) : s.skipIf c = s.setPc (if c then s.pc + 2#16 else s.pc) := by
  cases c <;> rfl

@[simp] theorem State.skipIf_pc (c : Bool) (s : State) : (s.skipIf c).pc = if c then s.pc + 2#16 else s.pc := by
  cases c <;> rfl

@[simp] theorem State.skipIf_v (c : Bool) (s : State) : (s.skipIf c).v = s.v := by cases c <;> rfl
@[simp] theorem State.skipIf_index (c : Bool) (s : State) : (s.skipIf c).index = s.index := by cases c <;> rfl
@[simp] theorem State.skipIf_stack (c : Bool) (s : State) : (s.skipIf c).stack = s.stack := by cases c <;> rfl
@[simp] theorem State.skipIf_sp (c : Bool) (s : State) : (s.skipIf c).sp = s.sp := by cases c <;> rfl
@[simp] theorem State.skipIf_dt (c : Bool) (s : State) : (s.skipIf c).dt = s.dt := by cases c <;> rfl
@[simp] theorem State.skipIf_st (c : Bool) (s : State) : (s.skipIf c).st = s.st := by cases c <;> rfl
@[simp] theorem State.skipIf_runState (c : Bool) (s : State) : (s.skipIf c).runState = s.runState := by cases c <;> rfl
@[simp] theorem State.skipIf_dirty (c : Bool) (s : State) : (s.skipIf c).dirty = s.dirty := by cases c <;> rfl
@[simp] theorem State.skipIf_opcode (c : Bool) (s : State) : (s.skipIf c).opcode = s.opcode := by cases c <;> rfl
@[simp] theorem State.skipIf_fb (c : Bool) (s : State) : (s.skipIf c).fb = s.fb := by cases c <;> rfl
@[simp] theorem State.skipIf_key (c : Bool) (s : State) : (s.skipIf c).key = s.key := by cases c <;> rfl
@[simp] theorem State.skipIf_mem (c : Bool) (s : State) : (s.skipIf c).mem = s.mem := by cases c <;> rfl
@[simp] theorem State.skipIf_font (c : Bool) (s : State) : (s.skipIf c).font = s.font := by cases c <;> rfl
@[simp] theorem State.skipIf_out (c : Bool) (s : State) : (s.skipIf c).out = s.out := by cases c <;> rfl
@[simp] theorem State.skipIf_schedule (c : Bool) (s : State) : (s.skipIf c).schedule = s.schedule := by cases c <;> rfl
@[simp] theorem State.skipIf_booting (c : Bool) (s : State) : (s.skipIf c).booting = s.booting := by cases c <;> rfl
@[simp] theorem State.skipIf_draws (c : Bool) (s : State) : (s.skipIf c).draws = s.draws := by cases c <;> rfl

/-! ### The register file -/

theorem State.reg_setReg (s : State) (x y : Reg) (b : Byte) : (s.setReg x b).reg y = if y = x then b else s.reg y := by
  simp [State.reg, State.setReg, Vector.getElem_set, Fin.ext_iff, eq_comm]

@[simp] theorem State.reg_setReg_self (s : State) (x : Reg) (b : Byte) : (s.setReg x b).reg x = b := by
  simp [State.reg_setReg]

theorem State.reg_setReg_of_ne (s : State) {x y : Reg} (b : Byte) (h : y ≠ x) : (s.setReg x b).reg y = s.reg y := by
  simp [State.reg_setReg, h]

/-- Two states that read the same in every register have the same register file. -/
theorem State.v_eq_of_reg {s t : State} (h : ∀ r, t.reg r = s.reg r) : t.v = s.v := by
  apply Vector.ext
  intro i hi
  exact h ⟨i, hi⟩

/-- Result first, flag last: in `V[15]` the flag stays, whatever the destination (R111). -/
theorem State.reg_setResultAndFlag (s : State) (x y : Reg) (r f : Byte) :
    (s.setResultAndFlag x r f).reg y = if y = flagReg then f else if y = x then r else s.reg y := by
  simp [State.setResultAndFlag, State.reg_setReg]

theorem State.setResultAndFlag_eq (s : State) (x : Reg) (r f : Byte) :
    s.setResultAndFlag x r f = { s with v := (s.setResultAndFlag x r f).v } := rfl

@[simp] theorem State.reg_setPc (s : State) (r' : Reg) (a : Word) : (s.setPc a).reg r' = s.reg r' := rfl
@[simp] theorem State.reg_setIndex (s : State) (r' : Reg) (a : Word) : (s.setIndex a).reg r' = s.reg r' := rfl
@[simp] theorem State.reg_setDt (s : State) (r' : Reg) (b : Byte) : (s.setDt b).reg r' = s.reg r' := rfl
@[simp] theorem State.reg_setSt (s : State) (r' : Reg) (b : Byte) : (s.setSt b).reg r' = s.reg r' := rfl
@[simp] theorem State.reg_writeByte (s : State) (r' : Reg) (a : Nat) (b : Byte) : (s.writeByte a b).reg r' = s.reg r' := rfl
@[simp] theorem State.reg_drawn (s : State) (r' : Reg) : (s.drawn).reg r' = s.reg r' := rfl
@[simp] theorem State.reg_enterFatal (s : State) (r' : Reg) (r : Report) : (s.enterFatal r).reg r' = s.reg r' := rfl
@[simp] theorem State.reg_reportCondition (s : State) (r' : Reg) (r : Report) : (s.reportCondition r).reg r' = s.reg r' := rfl
@[simp] theorem State.reg_skipIf (s : State) (r' : Reg) (c : Bool) : (s.skipIf c).reg r' = s.reg r' := by cases c <;> rfl

/-! ### Bytes of memory that an update of other state leaves alone -/

@[simp] theorem State.byteAt_setReg (s : State) (k : Nat) (x : Reg) (b : Byte) : (s.setReg x b).byteAt k = s.byteAt k := rfl
@[simp] theorem State.byteAt_setPc (s : State) (k : Nat) (a : Word) : (s.setPc a).byteAt k = s.byteAt k := rfl
@[simp] theorem State.byteAt_setIndex (s : State) (k : Nat) (a : Word) : (s.setIndex a).byteAt k = s.byteAt k := rfl
@[simp] theorem State.byteAt_setDt (s : State) (k : Nat) (b : Byte) : (s.setDt b).byteAt k = s.byteAt k := rfl
@[simp] theorem State.byteAt_setSt (s : State) (k : Nat) (b : Byte) : (s.setSt b).byteAt k = s.byteAt k := rfl
@[simp] theorem State.byteAt_drawn (s : State) (k : Nat) : (s.drawn).byteAt k = s.byteAt k := rfl
@[simp] theorem State.byteAt_enterFatal (s : State) (k : Nat) (r : Report) : (s.enterFatal r).byteAt k = s.byteAt k := rfl
@[simp] theorem State.byteAt_reportCondition (s : State) (k : Nat) (r : Report) : (s.reportCondition r).byteAt k = s.byteAt k := rfl
@[simp] theorem State.byteAt_putCanvas (s : State) (k : Nat) (c : Canvas) : (s.putCanvas c).byteAt k = s.byteAt k := rfl
@[simp] theorem State.byteAt_fetched (s : State) (k : Nat) : (s.fetched).byteAt k = s.byteAt k := rfl
@[simp] theorem State.byteAt_beginCycle (s : State) (k : Nat) : (s.beginCycle).byteAt k = s.byteAt k := rfl
@[simp] theorem State.byteAt_popEvent (s : State) (k : Nat) : (s.popEvent).byteAt k = s.byteAt k := rfl
@[simp] theorem State.byteAt_skipIf (s : State) (k : Nat) (c : Bool) : (s.skipIf c).byteAt k = s.byteAt k := by cases c <;> rfl

end Sys2Proof.Machine
end

