-- ==== Sys2Proof/Laws/Memory.lean ====
section
/-!
SUPPORT. The laws of memory: a read after a write, the canonical form kept by every write, and canonical memories that read the
same are the same list.
-/

namespace Sys2Proof.Machine

/-! ### Looking up after inserting and removing -/

theorem Memory.lookup_insert (m : Memory) (a k : Nat) (b : Byte) :
    Memory.lookup k (Memory.insert a b m) = if k = a then some b else Memory.lookup k m := by
  induction m with
  | nil => simp [Memory.insert, Memory.lookup, eq_comm]
  | cons c m ih =>
    obtain ⟨c1, c2⟩ := c
    simp only [Memory.insert]
    by_cases hka : k = a
    · subst hka
      split
      · simp [Memory.lookup]
      · split
        · simp [Memory.lookup]
        · rename_i h
          simp [Memory.lookup, ih, Ne.symm h]
    · split
      · simp [Memory.lookup, Ne.symm hka]
      · split
        · rename_i h
          simp [Memory.lookup, Ne.symm hka, ← h]
        · simp [Memory.lookup, ih, hka]

theorem Memory.lookup_remove (m : Memory) (a k : Nat) :
    Memory.lookup k (Memory.remove a m) = if k = a then none else Memory.lookup k m := by
  induction m with
  | nil => simp [Memory.remove, Memory.lookup]
  | cons c m ih =>
    obtain ⟨c1, c2⟩ := c
    simp only [Memory.remove] at ih ⊢
    by_cases h : c1 = a
    · subst h
      by_cases hk : k = c1
      · simpa [hk] using ih
      · simpa [Memory.lookup, hk, Ne.symm hk] using ih
    · by_cases hk : k = a
      · subst hk
        simpa [Memory.lookup, h] using ih
      · simp [Memory.lookup, h, ih, hk]

/-- Read after write: the byte written at its own address, and every other address as before. -/
theorem Memory.read_write (f : Font) (m : Memory) (a k : Nat) (b : Byte) :
    Memory.read f (Memory.write f a b m) k = if k = a ∧ a < 4096 then b else Memory.read f m k := by
  unfold Memory.write Memory.read
  by_cases ha : a < 4096
  · simp only [ha, if_true, and_true]
    split
    · rw [Memory.lookup_remove]; split <;> simp_all
    · rw [Memory.lookup_insert]; split <;> simp_all
  · simp [ha]

/-! ### The canonical form -/

theorem Memory.wf_nil (f : Font) : Memory.wf f [] = true := rfl

theorem Memory.wf_cons (f : Font) (a : Nat) (b : Byte) (m : Memory) :
    Memory.wf f ((a, b) :: m) = true ↔
      a < 4096 ∧ b ≠ Memory.unlisted f a ∧ (∀ c ∈ m, a < c.1) ∧ Memory.wf f m = true := by
  simp [Memory.wf, and_assoc]

theorem Memory.mem_insert (m : Memory) (a : Nat) (b : Byte) (c : Host.Cell) (h : c ∈ Memory.insert a b m) :
    c = (a, b) ∨ c ∈ m := by
  induction m with
  | nil => simpa [Memory.insert] using h
  | cons d m ih =>
    simp only [Memory.insert] at h
    split at h
    · simpa using h
    · split at h
      · simp only [List.mem_cons] at h ⊢; rcases h with h | h
        · exact .inl h
        · exact .inr (.inr h)
      · simp only [List.mem_cons] at h ⊢
        rcases h with h | h
        · exact .inr (.inl h)
        · rcases ih h with h | h
          · exact .inl h
          · exact .inr (.inr h)

theorem Memory.wf_insert (f : Font) (m : Memory) (a : Nat) (b : Byte) (ha : a < 4096)
    (hb : b ≠ Memory.unlisted f a) (h : Memory.wf f m = true) : Memory.wf f (Memory.insert a b m) = true := by
  induction m with
  | nil => simp [Memory.insert, Memory.wf_cons, ha, hb, Memory.wf_nil]
  | cons c m ih =>
    obtain ⟨k, d⟩ := c
    obtain ⟨hk, hd, hm, hwf⟩ := (Memory.wf_cons f k d m).1 h
    simp only [Memory.insert]
    split
    · rename_i hlt
      refine (Memory.wf_cons f a b _).2 ⟨ha, hb, ?_, h⟩
      intro c hc
      rcases List.mem_cons.1 hc with rfl | hc
      · exact hlt
      · exact Nat.lt_trans hlt (hm c hc)
    · split
      · rename_i heq
        subst heq
        exact (Memory.wf_cons f a b m).2 ⟨ha, hb, hm, hwf⟩
      · refine (Memory.wf_cons f k d _).2 ⟨hk, hd, ?_, ih hwf⟩
        intro c hc
        rcases Memory.mem_insert m a b c hc with rfl | hc
        · show k < a
          omega
        · exact hm c hc

theorem Memory.wf_remove (f : Font) (m : Memory) (a : Nat) (h : Memory.wf f m = true) :
    Memory.wf f (Memory.remove a m) = true := by
  induction m with
  | nil => rfl
  | cons c m ih =>
    obtain ⟨k, d⟩ := c
    obtain ⟨hk, hd, hm, hwf⟩ := (Memory.wf_cons f k d m).1 h
    by_cases hka : k = a
    · simpa [Memory.remove, hka] using ih hwf
    · have hne : (k != a) = true := by simpa using hka
      have heq : Memory.remove a ((k, d) :: m) = (k, d) :: Memory.remove a m := by
        simp [Memory.remove, hne]
      rw [heq]
      exact (Memory.wf_cons f k d _).2 ⟨hk, hd, fun c hc => hm c (List.mem_of_mem_filter hc), ih hwf⟩

/-- Every write keeps the canonical form. -/
theorem Memory.wf_write (f : Font) (m : Memory) (a : Nat) (b : Byte) (h : Memory.wf f m = true) :
    Memory.wf f (Memory.write f a b m) = true := by
  unfold Memory.write
  split
  · split
    · exact Memory.wf_remove f m a h
    · exact Memory.wf_insert f m a b ‹_› ‹_› h
  · exact h

/-- Below the least listed address nothing is listed. -/
theorem Memory.lookup_eq_none_of_lt (m : Memory) (a : Nat) (h : ∀ c ∈ m, a < c.1) : Memory.lookup a m = none := by
  induction m with
  | nil => rfl
  | cons c m ih =>
    have h1 : c.1 ≠ a := Nat.ne_of_gt (h c (by simp))
    simp only [Memory.lookup, if_neg h1]
    exact ih fun d hd => h d (by simp [hd])

/-- Canonical memories that read the same everywhere are equal data. -/
theorem Memory.ext_of_wf (f : Font) (m n : Memory) (hm : Memory.wf f m = true) (hn : Memory.wf f n = true)
    (h : ∀ a, Memory.read f m a = Memory.read f n a) : m = n := by
  induction m generalizing n with
  | nil =>
    cases n with
    | nil => rfl
    | cons d n =>
      obtain ⟨_, hd, _, _⟩ := (Memory.wf_cons f d.1 d.2 n).1 hn
      have := h d.1
      simp [Memory.read, Memory.lookup] at this
      exact absurd this.symm hd
  | cons c m ih =>
    obtain ⟨_, hc, hcm, hmw⟩ := (Memory.wf_cons f c.1 c.2 m).1 hm
    cases n with
    | nil =>
      have := h c.1
      simp [Memory.read, Memory.lookup] at this
      exact absurd this hc
    | cons d n =>
      obtain ⟨_, hd, hdn, hnw⟩ := (Memory.wf_cons f d.1 d.2 n).1 hn
      have key : c.1 = d.1 := by
        rcases Nat.lt_trichotomy c.1 d.1 with hlt | heq | hgt
        · have h1 := h c.1
          have h2 : Memory.lookup c.1 (d :: n) = none := by
            apply Memory.lookup_eq_none_of_lt
            intro e he
            rcases List.mem_cons.1 he with rfl | he
            · exact hlt
            · exact Nat.lt_trans hlt (hdn e he)
          rw [Memory.read, Memory.read, h2] at h1
          simp [Memory.lookup] at h1
          exact absurd h1 hc
        · exact heq
        · have h1 := h d.1
          have h2 : Memory.lookup d.1 (c :: m) = none := by
            apply Memory.lookup_eq_none_of_lt
            intro e he
            rcases List.mem_cons.1 he with rfl | he
            · exact hgt
            · exact Nat.lt_trans hgt (hcm e he)
          rw [Memory.read, Memory.read, h2] at h1
          simp [Memory.lookup] at h1
          exact absurd h1.symm hd
      have hval : c.2 = d.2 := by
        have h1 := h c.1
        simp [Memory.read, Memory.lookup, key] at h1
        exact h1
      have hcd : c = d := Prod.ext key hval
      subst hcd
      congr 1
      apply ih n hmw hnw
      intro a
      by_cases ha : c.1 = a
      · subst ha
        rw [Memory.read, Memory.read, Memory.lookup_eq_none_of_lt m _ hcm, Memory.lookup_eq_none_of_lt n _ hdn]
      · have h1 := h a
        simpa [Memory.read, Memory.lookup, ha] using h1

/-! ### The machine's memory -/

theorem State.byteAt_writeByte (s : State) (a k : Nat) (b : Byte) :
    (s.writeByte a b).byteAt k = if k = a ∧ a < 4096 then b else s.byteAt k :=
  Memory.read_write s.font s.mem a k b

/-- Writing bytes changes nothing but memory. -/
theorem State.writeBytes_eq (bs : List Byte) (a : Nat) (s : State) :
    State.writeBytes a bs s = { s with mem := (State.writeBytes a bs s).mem } := by
  induction bs generalizing a s with
  | nil => rfl
  | cons b bs ih => simpa [State.writeBytes] using ih (a + 1) (s.writeByte a b)

/-- What each address reads as after bytes were written at consecutive addresses within memory. -/
theorem State.byteAt_writeBytes (bs : List Byte) (a k : Nat) (s : State) (h : a + bs.length ≤ 4096) :
    (State.writeBytes a bs s).byteAt k = if hk : a ≤ k ∧ k - a < bs.length then bs[k - a] else s.byteAt k := by
  induction bs generalizing a s with
  | nil => simp [State.writeBytes]
  | cons b bs ih =>
    simp only [List.length_cons] at h
    rw [State.writeBytes, ih (a + 1) _ (by omega), State.byteAt_writeByte]
    by_cases hka : k = a
    · subst hka
      simp
      omega
    · by_cases hgt : a + 1 ≤ k
      · obtain ⟨j, rfl⟩ : ∃ j, k = a + 1 + j := ⟨k - (a + 1), by omega⟩
        have e1 : a + 1 + j - a = j + 1 := by omega
        have e2 : a ≤ a + 1 + j := by omega
        simp [e1, e2, hka]
      · have : ¬ a ≤ k := by omega
        simp [hka, this, hgt]

theorem State.writeBytes_wf (bs : List Byte) (a : Nat) (s : State) (h : Memory.wf s.font s.mem = true) :
    Memory.wf s.font (State.writeBytes a bs s).mem = true := by
  induction bs generalizing a s with
  | nil => exact h
  | cons b bs ih => exact ih (a + 1) (s.writeByte a b) (Memory.wf_write _ _ _ _ h)

/-- The memory of the machine after Reset is canonical. -/
theorem State.reset_mem_wf : Memory.wf State.reset.font State.reset.mem = true := rfl

end Sys2Proof.Machine
end

