-- ==== Sys2Proof/Laws/Ops.lean ====
section
/-!
SUPPORT. One lemma per shared operation that says once everything it does: the range check, the register list of the block
store and load, the keypad scan, the pixel plotter and the rasterizer's loops.
-/

namespace Sys2Proof.Machine

/-! ### The range check (R54) -/

theorem State.rangeOk_iff (s : State) (len : Nat) :
    s.rangeOk len = true ↔ len = 0 ∨ s.index.toNat + len - 1 ≤ 0xFFF := by
  simp [State.rangeOk]

theorem State.checkedAccess_of_ok {s : State} {len : Nat} (e : State)
    (h : len = 0 ∨ s.index.toNat + len - 1 ≤ 0xFFF) : s.checkedAccess len e = e := by
  rw [State.checkedAccess, if_pos ((s.rangeOk_iff len).2 h)]

theorem State.checkedAccess_of_not_ok {s : State} {len : Nat} (e : State)
    (h : ¬ (len = 0 ∨ s.index.toNat + len - 1 ≤ 0xFFF)) :
    s.checkedAccess len e = s.raiseMemRange s.rangeFaultAddr := by
  rw [State.checkedAccess, if_neg (fun hh => h ((s.rangeOk_iff len).1 hh))]

/-- A checked access either has its whole effect or is the fatal `MemRange`. -/
theorem State.checkedAccess_cases (s : State) (len : Nat) (e : State) :
    s.checkedAccess len e = e ∨ s.checkedAccess len e = s.raiseMemRange s.rangeFaultAddr := by
  unfold State.checkedAccess
  split
  · exact .inl rfl
  · exact .inr rfl

/-! ### The register list V0 to VX -/

theorem mem_regsUpTo (x r : Reg) : r ∈ regsUpTo x ↔ r ≤ x := by
  simp [regsUpTo]

theorem regsUpTo_map_val (x : Reg) : (regsUpTo x).map Fin.val = List.range (x.val + 1) := by
  revert x
  decide

theorem length_regsUpTo (x : Reg) : (regsUpTo x).length = x.val + 1 := by
  have h := congrArg List.length (regsUpTo_map_val x)
  simpa using h

theorem getElem_regsUpTo (x : Reg) (k : Nat) (h : k < (regsUpTo x).length) : ((regsUpTo x)[k]).val = k := by
  have h2 : ((regsUpTo x).map Fin.val)[k]'(by simpa using h) = k := by
    simp only [regsUpTo_map_val, List.getElem_range]
  simpa using h2

/-- The block load changes nothing but the register file. -/
theorem State.loadRegList_eq (rs : List Reg) (s : State) :
    State.loadRegList rs s = { s with v := (State.loadRegList rs s).v } := by
  induction rs generalizing s with
  | nil => rfl
  | cons r rs ih => simpa [State.loadRegList] using ih (s.setReg r (s.byteAt (s.effAddr r.val)))

/-- Each register of the list holds its byte of memory, every other what it held. -/
theorem State.reg_loadRegList (rs : List Reg) (s : State) (r : Reg) :
    (State.loadRegList rs s).reg r = if r ∈ rs then s.byteAt (s.effAddr r.val) else s.reg r := by
  induction rs generalizing s with
  | nil => simp [State.loadRegList]
  | cons q rs ih =>
    rw [State.loadRegList, ih, State.reg_setReg]
    have e : ∀ k, (s.setReg q (s.byteAt (s.effAddr q.val))).effAddr k = s.effAddr k := fun _ => rfl
    by_cases h1 : r ∈ rs
    · simp [h1, e]
    · by_cases h2 : r = q
      · subst h2
        simp [h1]
      · simp [h1, h2]

/-! ### The keypad scan (R153) -/

theorem State.lowestKeyDown_eq_some (s : State) (k : Key) :
    s.lowestKeyDown = some k ↔ s.keyDown k = true ∧ ∀ j < k, s.keyDown j = false := by
  rw [State.lowestKeyDown, List.find?_eq_some_iff_getElem]
  constructor
  · rintro ⟨h, i, hi, hik, hj⟩
    refine ⟨h, fun j hjk => ?_⟩
    have hk : k.val = i := by rw [← hik]; simp
    have hji : j.val < i := by rw [← hk]; exact hjk
    simpa using hj j.val hji
  · rintro ⟨h, hj⟩
    refine ⟨h, k.val, by simp, by simp, fun j hjk => ?_⟩
    simpa using hj ⟨j, Nat.lt_trans hjk k.isLt⟩ (by simpa [Fin.lt_def] using hjk)

theorem State.lowestKeyDown_eq_none (s : State) : s.lowestKeyDown = none ↔ ∀ k, s.keyDown k = false := by
  simp [State.lowestKeyDown]

/-! ### The framebuffer -/

theorem Framebuffer.cell_setCell (fb : Framebuffer) (y y' : Fin 32) (x x' : Fin 64) (b : Bool) :
    Framebuffer.cell (Framebuffer.setCell fb y x b) y' x' =
      if y' = y ∧ x' = x then b else Framebuffer.cell fb y' x' := by
  unfold Framebuffer.cell Framebuffer.setCell
  by_cases hy : y' = y
  · subst hy
    by_cases hx : x' = x
    · subst hx; simp
    · have : x.val ≠ x'.val := fun h => hx (Fin.ext h.symm)
      simp [hx, this]
  · have : y.val ≠ y'.val := fun h => hy (Fin.ext h.symm)
    simp [hy, this]

@[simp] theorem Framebuffer.cell_blank (y : Fin 32) (x : Fin 64) : Framebuffer.cell Framebuffer.blank y x = false := by
  simp [Framebuffer.cell, Framebuffer.blank]

/-- Framebuffers with the same cells are equal. -/
theorem Framebuffer.ext_cell {f g : Framebuffer} (h : ∀ y x, Framebuffer.cell f y x = Framebuffer.cell g y x) : f = g := by
  apply Vector.ext
  intro y hy
  apply Vector.ext
  intro x hx
  exact h ⟨y, hy⟩ ⟨x, hx⟩

/-! ### Plotting one pixel (R141, R142) -/

theorem plot_cell (x y : Nat) (c : Canvas) (y' : Fin 32) (x' : Fin 64) :
    Framebuffer.cell (plot x y c).fb y' x' =
      (Framebuffer.cell c.fb y' x' ^^ decide (y'.val = y ∧ x'.val = x)) := by
  unfold plot
  split
  · rename_i h
    simp only [Framebuffer.cell_setCell, Fin.ext_iff]
    by_cases hyx : y'.val = y ∧ x'.val = x
    · obtain ⟨rfl, rfl⟩ := hyx
      simp
    · simp [hyx]
  · rename_i h
    have : ¬ (y'.val = y ∧ x'.val = x) := by
      rintro ⟨rfl, rfl⟩
      exact h ⟨x'.isLt, y'.isLt⟩
    simp [this]

theorem plot_collision (x y : Nat) (c : Canvas) :
    (plot x y c).collision = true ↔
      c.collision = true ∨ ∃ (y' : Fin 32) (x' : Fin 64), y'.val = y ∧ x'.val = x ∧ Framebuffer.cell c.fb y' x' = true := by
  unfold plot
  split
  · rename_i h
    simp only [Bool.or_eq_true]
    constructor
    · rintro (h1 | h1)
      · exact .inl h1
      · exact .inr ⟨⟨y, h.2⟩, ⟨x, h.1⟩, rfl, rfl, h1⟩
    · rintro (h1 | ⟨y', x', rfl, rfl, h1⟩)
      · exact .inl h1
      · exact .inr h1
  · rename_i h
    constructor
    · exact .inl
    · rintro (h1 | ⟨y', x', rfl, rfl, _⟩)
      · exact h1
      · exact absurd ⟨x'.isLt, y'.isLt⟩ h

theorem plot_changed (x y : Nat) (c : Canvas) :
    (plot x y c).changed = true ↔ c.changed = true ∨ (x < 64 ∧ y < 32) := by
  unfold plot
  split <;> simp_all

/-! ### One sprite row, column by column -/

/-- The cell of column `x` and row `y'` is under a set bit of the first `n` columns of a sprite row on row `y`. -/
def underRow (b : Byte) (x0 y n : Nat) (y' : Fin 32) (x' : Fin 64) : Prop :=
  y'.val = y ∧ x0 ≤ x'.val ∧ x'.val < x0 + n ∧ spriteBit b (x'.val - x0) = true

theorem not_underRow_zero (b : Byte) (x0 y : Nat) (y' : Fin 32) (x' : Fin 64) : ¬ underRow b x0 y 0 y' x' := by
  rintro ⟨-, h1, h2, -⟩
  omega

theorem underRow_succ (b : Byte) (x0 y n : Nat) (y' : Fin 32) (x' : Fin 64) :
    underRow b x0 y (n + 1) y' x' ↔
      underRow b x0 y n y' x' ∨ (y'.val = y ∧ x'.val = x0 + n ∧ spriteBit b n = true) := by
  unfold underRow
  by_cases h : x'.val = x0 + n
  · have e : x0 + n - x0 = n := by omega
    simp only [h, e]
    constructor
    · rintro ⟨h1, -, -, h2⟩; exact .inr ⟨h1, trivial, h2⟩
    · rintro (⟨-, -, h1, -⟩ | ⟨h1, -, h2⟩)
      · omega
      · exact ⟨h1, by omega, by omega, h2⟩
  · constructor
    · rintro ⟨h1, h2, h3, h4⟩; exact .inl ⟨h1, h2, by omega, h4⟩
    · rintro (⟨h1, h2, h3, h4⟩ | ⟨_, h1, _⟩)
      · exact ⟨h1, h2, by omega, h4⟩
      · exact absurd h1 h

theorem drawColumns_cell (b : Byte) (x0 y n : Nat) (c : Canvas) (y' : Fin 32) (x' : Fin 64) :
    Framebuffer.cell ((List.range n).foldl (drawColumn b x0 y) c).fb y' x' = true ↔
      (Framebuffer.cell c.fb y' x' = true ↔ ¬ underRow b x0 y n y' x') := by
  induction n with
  | zero => simp [not_underRow_zero]
  | succ n ih =>
    rw [List.range_succ, List.foldl_append, List.foldl_cons, List.foldl_nil, underRow_succ]
    by_cases hb : spriteBit b n = true
    · rw [drawColumn, if_pos hb, plot_cell]
      by_cases hx : y'.val = y ∧ x'.val = x0 + n
      · have hu : ¬ underRow b x0 y n y' x' := by rintro ⟨-, -, h, -⟩; omega
        simp only [hu, not_false_eq_true, iff_true] at ih
        simp [hx, hu, hb, ← ih]
      · have h2 : ¬ (y'.val = y ∧ x'.val = x0 + n ∧ spriteBit b n = true) := fun h => hx ⟨h.1, h.2.1⟩
        rw [decide_eq_false hx, Bool.xor_false, ih, or_iff_left h2]
    · simp only [drawColumn, if_neg hb, ih]
      simp [hb]

theorem drawColumns_collision (b : Byte) (x0 y n : Nat) (c : Canvas) :
    ((List.range n).foldl (drawColumn b x0 y) c).collision = true ↔
      c.collision = true ∨ ∃ y' x', underRow b x0 y n y' x' ∧ Framebuffer.cell c.fb y' x' = true := by
  induction n with
  | zero => simp [not_underRow_zero]
  | succ n ih =>
    rw [List.range_succ, List.foldl_append, List.foldl_cons, List.foldl_nil]
    by_cases hb : spriteBit b n = true
    · simp only [drawColumn, hb, if_true, plot_collision, ih, underRow_succ, and_true]
      constructor
      · rintro ((h | ⟨y', x', h1, h2⟩) | ⟨y', x', h1, h2, h3⟩)
        · exact .inl h
        · exact .inr ⟨y', x', .inl h1, h2⟩
        · refine .inr ⟨y', x', .inr ⟨h1, h2⟩, ?_⟩
          have hu : ¬ underRow b x0 y n y' x' := by rintro ⟨-, -, h, -⟩; omega
          exact ((drawColumns_cell b x0 y n c y' x').1 h3).2 hu
      · rintro (h | ⟨y', x', (h1 | ⟨h1, h2⟩), h3⟩)
        · exact .inl (.inl h)
        · exact .inl (.inr ⟨y', x', h1, h3⟩)
        · refine .inr ⟨y', x', h1, h2, ?_⟩
          have hu : ¬ underRow b x0 y n y' x' := by rintro ⟨-, -, h, -⟩; omega
          exact (drawColumns_cell b x0 y n c y' x').2 ⟨fun _ => hu, fun _ => h3⟩
    · simp only [drawColumn, if_neg hb, ih, underRow_succ]
      simp [hb]

theorem drawColumns_changed (b : Byte) (x0 y n : Nat) (c : Canvas) :
    ((List.range n).foldl (drawColumn b x0 y) c).changed = true ↔
      c.changed = true ∨ ∃ y' x', underRow b x0 y n y' x' := by
  induction n with
  | zero => simp [not_underRow_zero]
  | succ n ih =>
    rw [List.range_succ, List.foldl_append, List.foldl_cons, List.foldl_nil]
    by_cases hb : spriteBit b n = true
    · simp only [drawColumn, hb, if_true, plot_changed, ih, underRow_succ, and_true]
      constructor
      · rintro ((h | ⟨y', x', h1⟩) | ⟨h1, h2⟩)
        · exact .inl h
        · exact .inr ⟨y', x', .inl h1⟩
        · exact .inr ⟨⟨y, h2⟩, ⟨x0 + n, h1⟩, .inr ⟨rfl, rfl⟩⟩
      · rintro (h | ⟨y', x', (h1 | ⟨h1, h2⟩)⟩)
        · exact .inl (.inl h)
        · exact .inl (.inr ⟨y', x', h1⟩)
        · exact .inr ⟨h2 ▸ x'.isLt, h1 ▸ y'.isLt⟩
    · simp only [drawColumn, if_neg hb, ih, underRow_succ]
      simp [hb]

/-! ### The whole sprite, row by row -/

/-- The cell of column `x'` and row `y'` is under a set bit of the first `n` rows of the sprite at `I`. -/
def underSprite (s : State) (x0 y0 n : Nat) (y' : Fin 32) (x' : Fin 64) : Prop :=
  y0 ≤ y'.val ∧ y'.val < y0 + n ∧ underRow (s.byteAt (s.effAddr (y'.val - y0))) x0 y'.val 8 y' x'

theorem not_underSprite_zero (s : State) (x0 y0 : Nat) (y' : Fin 32) (x' : Fin 64) :
    ¬ underSprite s x0 y0 0 y' x' := by
  rintro ⟨h1, h2, -⟩
  omega

theorem underSprite_succ (s : State) (x0 y0 n : Nat) (y' : Fin 32) (x' : Fin 64) :
    underSprite s x0 y0 (n + 1) y' x' ↔
      underSprite s x0 y0 n y' x' ∨ underRow (s.byteAt (s.effAddr n)) x0 (y0 + n) 8 y' x' := by
  unfold underSprite
  by_cases h : y'.val = y0 + n
  · have e : y0 + n - y0 = n := by omega
    simp only [h, e]
    constructor
    · rintro ⟨-, -, h1⟩; exact .inr h1
    · rintro (⟨-, h1, -⟩ | h1)
      · omega
      · exact ⟨by omega, by omega, h1⟩
  · constructor
    · rintro ⟨h1, h2, h3⟩; exact .inl ⟨h1, by omega, h3⟩
    · rintro (⟨h1, h2, h3⟩ | h1)
      · exact ⟨h1, by omega, h3⟩
      · exact absurd h1.1 h

theorem not_underSprite_of_row (s : State) (x0 y0 n : Nat) (y' : Fin 32) (x' : Fin 64) (h : y'.val = y0 + n) :
    ¬ underSprite s x0 y0 n y' x' := by
  rintro ⟨-, h1, -⟩
  omega

theorem not_underRow_of_below (b : Byte) (x0 y n : Nat) (y' : Fin 32) (x' : Fin 64) (h : ¬ y ≤ 31) :
    ¬ underRow b x0 y n y' x' := by
  rintro ⟨h1, -⟩
  have := y'.isLt
  omega

/-- Which cells are on after the sprite: those that were, exclusive-or those under a set sprite bit. -/
theorem drawRows_cell (s : State) (x0 y0 n : Nat) (c : Canvas) (y' : Fin 32) (x' : Fin 64) :
    Framebuffer.cell (drawRows s x0 y0 n c).fb y' x' = true ↔
      (Framebuffer.cell c.fb y' x' = true ↔ ¬ underSprite s x0 y0 n y' x') := by
  induction n with
  | zero => simp [drawRows, not_underSprite_zero]
  | succ n ih =>
    unfold drawRows at ih ⊢
    rw [List.range_succ, List.foldl_append, List.foldl_cons, List.foldl_nil, underSprite_succ]
    split
    · rw [drawRow, drawColumns_cell, ih]
      by_cases hr : y'.val = y0 + n
      · have := not_underSprite_of_row s x0 y0 n y' x' hr
        simp [this]
      · have : ¬ underRow (s.byteAt (s.effAddr n)) x0 (y0 + n) 8 y' x' := fun h => hr h.1
        simp [this]
    · rename_i h
      have := not_underRow_of_below (s.byteAt (s.effAddr n)) x0 (y0 + n) 8 y' x' h
      simp [this, ih]

/-- There is a collision exactly when a set sprite bit lands on a cell that is on. -/
theorem drawRows_collision (s : State) (x0 y0 n : Nat) (c : Canvas) :
    (drawRows s x0 y0 n c).collision = true ↔
      c.collision = true ∨ ∃ y' x', underSprite s x0 y0 n y' x' ∧ Framebuffer.cell c.fb y' x' = true := by
  induction n with
  | zero => simp [drawRows, not_underSprite_zero]
  | succ n ih =>
    have hcell := drawRows_cell s x0 y0 n c
    unfold drawRows at ih hcell ⊢
    rw [List.range_succ, List.foldl_append, List.foldl_cons, List.foldl_nil]
    simp only [underSprite_succ]
    split
    · rw [drawRow, drawColumns_collision, ih]
      constructor
      · rintro ((h | ⟨y', x', h1, h2⟩) | ⟨y', x', h1, h2⟩)
        · exact .inl h
        · exact .inr ⟨y', x', .inl h1, h2⟩
        · exact .inr ⟨y', x', .inr h1, ((hcell y' x').1 h2).2 (not_underSprite_of_row s x0 y0 n y' x' h1.1)⟩
      · rintro (h | ⟨y', x', (h1 | h1), h2⟩)
        · exact .inl (.inl h)
        · exact .inl (.inr ⟨y', x', h1, h2⟩)
        · exact .inr ⟨y', x', h1,
            (hcell y' x').2 ⟨fun _ => not_underSprite_of_row s x0 y0 n y' x' h1.1, fun _ => h2⟩⟩
    · rename_i h
      rw [ih]
      simp [not_underRow_of_below _ x0 (y0 + n) 8 _ _ h]

/-- Some cell changed exactly when some set sprite bit is not clipped. -/
theorem drawRows_changed (s : State) (x0 y0 n : Nat) (c : Canvas) :
    (drawRows s x0 y0 n c).changed = true ↔ c.changed = true ∨ ∃ y' x', underSprite s x0 y0 n y' x' := by
  induction n with
  | zero => simp [drawRows, not_underSprite_zero]
  | succ n ih =>
    unfold drawRows at ih ⊢
    rw [List.range_succ, List.foldl_append, List.foldl_cons, List.foldl_nil]
    simp only [underSprite_succ]
    split
    · rw [drawRow, drawColumns_changed, ih]
      constructor
      · rintro ((h | ⟨y', x', h1⟩) | ⟨y', x', h1⟩)
        · exact .inl h
        · exact .inr ⟨y', x', .inl h1⟩
        · exact .inr ⟨y', x', .inr h1⟩
      · rintro (h | ⟨y', x', (h1 | h1)⟩)
        · exact .inl (.inl h)
        · exact .inl (.inr ⟨y', x', h1⟩)
        · exact .inr ⟨y', x', h1⟩
    · rename_i h
      rw [ih]
      simp [not_underRow_of_below _ x0 (y0 + n) 8 _ _ h]

/-- The canvas goes back into the register file, the framebuffer and `dirty`, and nowhere else. -/
theorem State.putCanvas_eq (c : Canvas) (s : State) :
    s.putCanvas c = { s with v := (s.putCanvas c).v, fb := c.fb, dirty := s.dirty || c.changed } := rfl

theorem State.reg_putCanvas (c : Canvas) (s : State) (r : Reg) :
    (s.putCanvas c).reg r = if r = flagReg then flagByte c.collision else s.reg r :=
  State.reg_setReg s flagReg r (flagByte c.collision)

/-! ### Flags, digits, keys and addresses -/

/-- The flag register is `V[15]` (R12). -/
theorem flagReg_eq : flagReg = (15 : Reg) := rfl

/-- A 12-bit address zero-extended is the same number (R63). -/
theorem addrOf_toNat (nnn : Addr12) : (addrOf nnn).toNat = nnn.toNat := by
  have := nnn.isLt
  rw [addrOf, BitVec.toNat_setWidth, Nat.mod_eq_of_lt (by omega)]

/-- A register zero-extended is the same number. -/
theorem State.regWord_toNat (s : State) (x : Reg) : (s.regWord x).toNat = (s.reg x).toNat := by
  have := (s.reg x).isLt
  rw [State.regWord, BitVec.toNat_setWidth, Nat.mod_eq_of_lt (by omega)]

/-- A 12-bit address plus a register never wraps (R93). -/
theorem addrOf_add_regWord_toNat (nnn : Addr12) (s : State) (x : Reg) :
    (addrOf nnn + s.regWord x).toNat = nnn.toNat + (s.reg x).toNat := by
  have := nnn.isLt
  have := (s.reg x).isLt
  rw [BitVec.toNat_add, addrOf_toNat, State.regWord_toNat, Nat.mod_eq_of_lt (by omega)]

/-- The first address out of range is `max(I, 0x1000)` as a number (R54). -/
theorem State.rangeFaultAddr_toNat (s : State) : s.rangeFaultAddr.toNat = max s.index.toNat 0x1000 := by
  have := s.index.isLt
  rw [State.rangeFaultAddr, BitVec.toNat_ofNat, Nat.mod_eq_of_lt (by omega)]

theorem keyOf_of_lt (b : Byte) (k : Key) (h : b.toNat = k.val) : keyOf b = some k := by
  unfold keyOf
  rw [dif_pos (by omega)]
  congr

theorem keyOf_of_gt (b : Byte) (h : 15 < b.toNat) : keyOf b = none := by
  unfold keyOf
  rw [dif_neg (by omega)]

theorem flagByte_eq_one (c : Bool) : flagByte c = 0x01#8 ↔ c = true := by
  cases c <;> decide

theorem flagByte_eq_zero (c : Bool) : flagByte c = 0x00#8 ↔ c = false := by
  cases c <;> decide

theorem length_bcdDigits (b : Byte) : (bcdDigits b).length = 3 := rfl

/-! ### The cycle and the schedule -/

theorem cycle_of_not_running {s : State} (h : s.runState ≠ .running) : cycle s = .next s.beginCycle := by
  unfold cycle
  cases hr : s.runState <;> simp_all

theorem cycle_of_fetch {s : State} (hr : s.runState = .running) (hp : s.pc.toNat ≤ 0x0FFE) :
    cycle s = dispatchWord s.beginCycle.fetched := by
  simp [cycle, hr, State.fetchInRange, hp]

theorem cycle_of_out_of_range {s : State} (hr : s.runState = .running) (hp : ¬ s.pc.toNat ≤ 0x0FFE) :
    cycle s = .next s.beginCycle.raiseFetchRange := by
  simp only [cycle, hr, State.fetchInRange, decide_eq_true_eq, if_neg hp]

theorem dispatchWord_of_ok {s : State} {i : Instr} (h : decode s.opcode = .ok i) : dispatchWord s = exec i s := by
  simp [dispatchWord, h]

theorem dispatchWord_of_error {s : State} {e : DecodeError} (h : decode s.opcode = .error e) :
    dispatchWord s = .next s.reportUndecodable := by
  simp [dispatchWord, h]

end Sys2Proof.Machine
end

