-- ==== Sys2Proof/Laws/Frames.lean ====
section
/-!
SUPPORT. The frame of each shared operation in the terms of Safety.lean, the rasterizer's cells as `State.spritePixel`, and the
cycle of a fetching machine as the dispatch of the state its handler starts from.
-/

namespace Sys2Proof.Machine

/-- Changing `pc` alone changes nothing else. -/
theorem State.onlyPc_setPc (a : Word) (s : State) : OnlyPc s (s.setPc a) :=
  ⟨fun _ _ => rfl, fun _ => rfl, rfl⟩

/-- A skip changes `pc` alone, taken or not. -/
theorem State.onlyPc_skipIf (c : Bool) (s : State) : OnlyPc s (s.skipIf c) := by
  cases c
  · exact ⟨fun _ _ => rfl, fun _ => rfl, rfl⟩
  · exact s.onlyPc_setPc _

/-- Writing `I` changes `I` alone. -/
theorem State.onlyIndex_setIndex (a : Word) (s : State) : OnlyIndex s (s.setIndex a) :=
  ⟨fun _ _ => rfl, fun _ => rfl, rfl⟩

/-- Writing a register changes that register alone. -/
theorem State.onlyRegs_setReg (x : Reg) (b : Byte) (s : State) : OnlyRegs [x] s (s.setReg x b) := by
  refine ⟨fun r hr => ?_, fun _ => rfl, rfl⟩
  rw [State.reg_setReg, if_neg (by simpa using hr)]

/-- A flag-writing instruction changes its destination and `V[15]` alone. -/
theorem State.onlyRegs_setResultAndFlag (x : Reg) (result flag : Byte) (s : State) :
    OnlyRegs [x, 15] s (s.setResultAndFlag x result flag) := by
  refine ⟨fun r hr => ?_, fun _ => rfl, rfl⟩
  simp only [List.mem_cons, not_or] at hr
  rw [State.reg_setResultAndFlag, flagReg_eq, if_neg hr.2.1, if_neg hr.1]

/-- Storing bytes changes those bytes alone. -/
theorem State.onlyBytes_writeBytes (a : Nat) (bs : List Byte) (s : State) (h : a + bs.length ≤ 4096) :
    OnlyBytes a bs.length s (State.writeBytes a bs s) := by
  refine ⟨fun r _ => ?_, fun k hk => ?_, State.writeBytes_eq bs a s⟩
  · rw [State.writeBytes_eq]; rfl
  · rw [State.byteAt_writeBytes _ _ _ _ h, dif_neg (by omega)]

/-- Taking a fatal condition writes nothing but run state and report (R169). -/
theorem State.haltedWith_enterFatal (r : Report) (s : State) : HaltedWith r s (s.enterFatal r) :=
  ⟨fun _ _ => rfl, fun _ => rfl, rfl⟩

/-- Following an instruction and stepping back over it gives its own address (R83, R165). -/
theorem add_two_sub_two (p : Word) : p + 2#16 - 2#16 = p := by bv_omega

/-- A skip from the following instruction lands 4 after the instruction's own address (R100). -/
theorem add_two_add_two (p : Word) : p + 2#16 + 2#16 = p + 4#16 := by bv_omega

/-- The cells under a set bit of the sprite, in the terms of the rasterizer's laws and as a picture. -/
theorem underSprite_iff (s : State) (x0 y0 n : Nat) (y : Fin 32) (x : Fin 64) :
    underSprite s x0 y0 n y x ↔ s.spritePixel x0 y0 n y x = true := by
  unfold underSprite underRow State.spritePixel spriteBit State.effAddr
  simp only [Bool.and_eq_true, decide_eq_true_eq]
  tauto

/-- A step that fetches is the dispatch of the word on the state its handler starts from. -/
theorem step_of_aboutToFetch {s : State} (h : s.AboutToFetch) : step s = dispatchWord s.handlerStart := by
  obtain ⟨he, hr, hp⟩ := h
  rw [step, he, deliver, cycle_of_fetch (by simpa using hr) (by simpa using hp)]
  rfl

end Sys2Proof.Machine
end

