-- ==== Sys2Proof/Laws/PerInstr.lean ====
section
/-!
SUPPORT. The fields of a word written as a concatenation (spec/30_encoding.md R62), and the family Selects: the word of every
instruction selects the row of the opcode list (R70) that bears its mnemonic.
-/

namespace Sys2Proof.Laws

/-! ### Bits of a concatenation -/

theorem bit_nnn (p : Nibble) (a : Addr12) (i : Nat) :
    (p ++ a : Word).getLsbD i = if i < 12 then a.getLsbD i else p.getLsbD (i - 12) :=
  BitVec.getLsbD_append

theorem bit_xnn (p r : Nibble) (b : Byte) (i : Nat) :
    (p ++ r ++ b : Word).getLsbD i =
      if i < 8 then b.getLsbD i else if i < 12 then r.getLsbD (i - 8) else p.getLsbD (i - 12) := by
  have h1 : (p ++ r ++ b : Word).getLsbD i = if i < 8 then b.getLsbD i else (p ++ r).getLsbD (i - 8) :=
    BitVec.getLsbD_append
  have h2 : (p ++ r).getLsbD (i - 8) = if i - 8 < 4 then r.getLsbD (i - 8) else p.getLsbD (i - 8 - 4) :=
    BitVec.getLsbD_append
  rw [h1, h2]
  by_cases h : i < 8
  · simp [h]
  · have e1 : (i - 8 < 4) = (i < 12) := by apply propext; omega
    have e2 : i - 8 - 4 = i - 12 := by omega
    simp only [h, if_false, e1, e2]

theorem bit_xyn (p r q n : Nibble) (i : Nat) :
    (p ++ r ++ q ++ n : Word).getLsbD i =
      if i < 4 then n.getLsbD i else if i < 8 then q.getLsbD (i - 4)
      else if i < 12 then r.getLsbD (i - 8) else p.getLsbD (i - 12) := by
  have h1 : (p ++ r ++ q ++ n : Word).getLsbD i =
      if i < 4 then n.getLsbD i else (p ++ r ++ q).getLsbD (i - 4) := BitVec.getLsbD_append
  have h2 : (p ++ r ++ q).getLsbD (i - 4) =
      if i - 4 < 4 then q.getLsbD (i - 4) else (p ++ r).getLsbD (i - 4 - 4) := BitVec.getLsbD_append
  have h3 : (p ++ r).getLsbD (i - 4 - 4) =
      if i - 4 - 4 < 4 then r.getLsbD (i - 4 - 4) else p.getLsbD (i - 4 - 4 - 4) := BitVec.getLsbD_append
  rw [h1, h2, h3]
  by_cases h : i < 4
  · simp [h]
  · have e1 : (i - 4 < 4) = (i < 8) := by apply propext; omega
    by_cases h' : i < 8
    · simp [h, e1, h']
    · have e2 : i - 4 - 4 = i - 8 := by omega
      have e3 : (i - 8 < 4) = (i < 12) := by apply propext; omega
      have e4 : i - 8 - 4 = i - 12 := by omega
      simp only [h, h', if_false, e1, e2, e3, e4]

/-! ### A word as its fields put together (R62) -/

theorem extract_toNat (w : Word) (lo n : Nat) : (w.extractLsb' lo n).toNat = w.toNat / 2 ^ lo % 2 ^ n := by
  simp [BitVec.extractLsb'_toNat, Nat.shiftRight_eq_div_pow]

theorem word_nnn (w : Word) : fieldP w ++ fieldNNN w = w := by
  apply BitVec.eq_of_toNat_eq
  have hw := w.isLt
  rw [BitVec.toNat_append, fieldP, fieldNNN, extract_toNat, extract_toNat, ← Nat.shiftLeft_add_eq_or_of_lt (by omega)]
  simp only [Nat.shiftLeft_eq]
  omega

theorem word_xnn (w : Word) : fieldP w ++ regBits (fieldX w) ++ fieldNN w = w := by
  apply BitVec.eq_of_toNat_eq
  have hw := w.isLt
  have hx : regBits (fieldX w) = w.extractLsb' 8 4 := rfl
  rw [hx, BitVec.toNat_append, BitVec.toNat_append, fieldP, fieldNN, extract_toNat, extract_toNat, extract_toNat,
    ← Nat.shiftLeft_add_eq_or_of_lt (by omega), ← Nat.shiftLeft_add_eq_or_of_lt (by omega)]
  simp only [Nat.shiftLeft_eq]
  omega

theorem word_xyn (w : Word) : fieldP w ++ regBits (fieldX w) ++ fieldYBits w ++ fieldN w = w := by
  apply BitVec.eq_of_toNat_eq
  have hw := w.isLt
  have hx : regBits (fieldX w) = w.extractLsb' 8 4 := rfl
  rw [hx, BitVec.toNat_append, BitVec.toNat_append, BitVec.toNat_append, fieldP, fieldYBits, fieldN, extract_toNat,
    extract_toNat, extract_toNat, extract_toNat, ← Nat.shiftLeft_add_eq_or_of_lt (by omega),
    ← Nat.shiftLeft_add_eq_or_of_lt (by omega), ← Nat.shiftLeft_add_eq_or_of_lt (by omega)]
  simp only [Nat.shiftLeft_eq]
  omega

/-! ### Fields of a concatenation -/

theorem regBits_toFin (x : Reg) : (regBits x).toFin = x := rfl

theorem fieldP_nnn (p : Nibble) (a : Addr12) : fieldP (p ++ a : Word) = p := by
  apply BitVec.eq_of_getLsbD_eq
  intro i hi
  rw [fieldP, BitVec.getLsbD_extractLsb', bit_nnn]
  interval_cases i <;> simp

theorem fieldNNN_nnn (p : Nibble) (a : Addr12) : fieldNNN (p ++ a : Word) = a := by
  apply BitVec.eq_of_getLsbD_eq
  intro i hi
  rw [fieldNNN, BitVec.getLsbD_extractLsb', bit_nnn]
  interval_cases i <;> simp

theorem fieldP_xnn (p r : Nibble) (b : Byte) : fieldP (p ++ r ++ b : Word) = p := by
  apply BitVec.eq_of_getLsbD_eq
  intro i hi
  rw [fieldP, BitVec.getLsbD_extractLsb', bit_xnn]
  interval_cases i <;> simp

theorem fieldNN_xnn (p r : Nibble) (b : Byte) : fieldNN (p ++ r ++ b : Word) = b := by
  apply BitVec.eq_of_getLsbD_eq
  intro i hi
  rw [fieldNN, BitVec.getLsbD_extractLsb', bit_xnn]
  interval_cases i <;> simp

theorem fieldX_xnn (p : Nibble) (x : Reg) (b : Byte) : fieldX (p ++ regBits x ++ b : Word) = x := by
  have h : (p ++ regBits x ++ b : Word).extractLsb' 8 4 = regBits x := by
    apply BitVec.eq_of_getLsbD_eq
    intro i hi
    rw [BitVec.getLsbD_extractLsb', bit_xnn]
    interval_cases i <;> simp
  exact (congrArg BitVec.toFin h).trans (regBits_toFin x)

theorem fieldP_xyn (p r q n : Nibble) : fieldP (p ++ r ++ q ++ n : Word) = p := by
  apply BitVec.eq_of_getLsbD_eq
  intro i hi
  rw [fieldP, BitVec.getLsbD_extractLsb', bit_xyn]
  interval_cases i <;> simp

theorem fieldYBits_xyn (p r q n : Nibble) : fieldYBits (p ++ r ++ q ++ n : Word) = q := by
  apply BitVec.eq_of_getLsbD_eq
  intro i hi
  rw [fieldYBits, BitVec.getLsbD_extractLsb', bit_xyn]
  interval_cases i <;> simp

theorem fieldN_xyn (p r q n : Nibble) : fieldN (p ++ r ++ q ++ n : Word) = n := by
  apply BitVec.eq_of_getLsbD_eq
  intro i hi
  rw [fieldN, BitVec.getLsbD_extractLsb', bit_xyn]
  interval_cases i <;> simp

theorem fieldX_xyn (p : Nibble) (x : Reg) (q n : Nibble) : fieldX (p ++ regBits x ++ q ++ n : Word) = x := by
  have h : (p ++ regBits x ++ q ++ n : Word).extractLsb' 8 4 = regBits x := by
    apply BitVec.eq_of_getLsbD_eq
    intro i hi
    rw [BitVec.getLsbD_extractLsb', bit_xyn]
    interval_cases i <;> simp
  exact (congrArg BitVec.toFin h).trans (regBits_toFin x)

theorem fieldY_xyn (p r : Nibble) (y : Reg) (n : Nibble) : fieldY (p ++ r ++ regBits y ++ n : Word) = y :=
  (congrArg BitVec.toFin (fieldYBits_xyn p r (regBits y) n)).trans (regBits_toFin y)

/-! ### Masks of a concatenation -/

theorem mask_nnn (p : Nibble) (a : Addr12) : (p ++ a : Word) &&& 0xF000#16 = (p ++ 0#12 : Word) := by
  apply BitVec.eq_of_getLsbD_eq
  intro i hi
  rw [BitVec.getLsbD_and, bit_nnn, bit_nnn]
  interval_cases i <;> simp

theorem mask_xnn (p r : Nibble) (b : Byte) : (p ++ r ++ b : Word) &&& 0xF000#16 = (p ++ 0#4 ++ 0#8 : Word) := by
  apply BitVec.eq_of_getLsbD_eq
  intro i hi
  rw [BitVec.getLsbD_and, bit_xnn, bit_xnn]
  interval_cases i <;> simp

theorem mask_xss (p r : Nibble) (b : Byte) : (p ++ r ++ b : Word) &&& 0xF0FF#16 = (p ++ 0#4 ++ b : Word) := by
  apply BitVec.eq_of_getLsbD_eq
  intro i hi
  rw [BitVec.getLsbD_and, bit_xnn, bit_xnn]
  interval_cases i <;> simp

theorem mask_xys (p r q n : Nibble) :
    (p ++ r ++ q ++ n : Word) &&& 0xF00F#16 = (p ++ 0#4 ++ 0#4 ++ n : Word) := by
  apply BitVec.eq_of_getLsbD_eq
  intro i hi
  rw [BitVec.getLsbD_and, bit_xyn, bit_xyn]
  interval_cases i <;> simp

theorem mask_xyn (p r q n : Nibble) :
    (p ++ r ++ q ++ n : Word) &&& 0xF000#16 = (p ++ 0#4 ++ 0#4 ++ 0#4 : Word) := by
  apply BitVec.eq_of_getLsbD_eq
  intro i hi
  rw [BitVec.getLsbD_and, bit_xyn, bit_xyn]
  interval_cases i <;> simp

/-! ### The family Selects -/

/-- The word of the instruction selects the row of the opcode list that bears its mnemonic (R70). -/
def Selects.Statement (i : Instr) : Prop :=
  ∃ r ∈ opcodeTable, r.mnemonic = i.mnemonic ∧ r.selects (encode i) = true

/-- A row of the list that bears the instruction's mnemonic and selects its word. -/
theorem Selects.of_row {i : Instr} (r : OpcodeRow) (hm : r ∈ opcodeTable) (hn : r.mnemonic = i.mnemonic)
    (hs : encode i &&& r.mask = r.pattern) : Selects.Statement i :=
  ⟨r, hm, hn, by rw [OpcodeRow.selects, hs]; exact beq_self_eq_true _⟩

theorem Selects.cls : Selects.Statement .cls :=
  Selects.of_row ⟨"CLS", 0x00E0#16, 0xFFFF#16⟩ (by decide) rfl (rfl)

theorem Selects.ret : Selects.Statement .ret :=
  Selects.of_row ⟨"RET", 0x00EE#16, 0xFFFF#16⟩ (by decide) rfl (rfl)

theorem Selects.jp (nnn : Addr12) : Selects.Statement (.jp nnn) :=
  Selects.of_row ⟨"JP_NNN", 0x1000#16, 0xF000#16⟩ (by decide) rfl (mask_nnn 0x1#4 nnn)

theorem Selects.call (nnn : Addr12) : Selects.Statement (.call nnn) :=
  Selects.of_row ⟨"CALL_NNN", 0x2000#16, 0xF000#16⟩ (by decide) rfl (mask_nnn 0x2#4 nnn)

theorem Selects.seImm (x : Reg) (nn : Byte) : Selects.Statement (.seImm x nn) :=
  Selects.of_row ⟨"SE_Vx__NN", 0x3000#16, 0xF000#16⟩ (by decide) rfl (mask_xnn 0x3#4 (regBits x) nn)

theorem Selects.sneImm (x : Reg) (nn : Byte) : Selects.Statement (.sneImm x nn) :=
  Selects.of_row ⟨"SNE_Vx__NN", 0x4000#16, 0xF000#16⟩ (by decide) rfl (mask_xnn 0x4#4 (regBits x) nn)

theorem Selects.seReg (x y : Reg) (n : Nibble) : Selects.Statement (.seReg x y n) :=
  Selects.of_row ⟨"SE_Vx__Vy", 0x5000#16, 0xF000#16⟩ (by decide) rfl (mask_xyn 0x5#4 (regBits x) (regBits y) n)

theorem Selects.ldImm (x : Reg) (nn : Byte) : Selects.Statement (.ldImm x nn) :=
  Selects.of_row ⟨"LD_Vx__NN", 0x6000#16, 0xF000#16⟩ (by decide) rfl (mask_xnn 0x6#4 (regBits x) nn)

theorem Selects.addImm (x : Reg) (nn : Byte) : Selects.Statement (.addImm x nn) :=
  Selects.of_row ⟨"ADD_Vx__NN", 0x7000#16, 0xF000#16⟩ (by decide) rfl (mask_xnn 0x7#4 (regBits x) nn)

theorem Selects.ldReg (x y : Reg) : Selects.Statement (.ldReg x y) :=
  Selects.of_row ⟨"LD_Vx__Vy", 0x8000#16, 0xF00F#16⟩ (by decide) rfl (mask_xys 0x8#4 (regBits x) (regBits y) 0x0#4)

theorem Selects.orReg (x y : Reg) : Selects.Statement (.orReg x y) :=
  Selects.of_row ⟨"OR_Vx__Vy", 0x8001#16, 0xF00F#16⟩ (by decide) rfl (mask_xys 0x8#4 (regBits x) (regBits y) 0x1#4)

theorem Selects.andReg (x y : Reg) : Selects.Statement (.andReg x y) :=
  Selects.of_row ⟨"AND_Vx__Vy", 0x8002#16, 0xF00F#16⟩ (by decide) rfl (mask_xys 0x8#4 (regBits x) (regBits y) 0x2#4)

theorem Selects.xorReg (x y : Reg) : Selects.Statement (.xorReg x y) :=
  Selects.of_row ⟨"XOR_Vx__Vy", 0x8003#16, 0xF00F#16⟩ (by decide) rfl (mask_xys 0x8#4 (regBits x) (regBits y) 0x3#4)

theorem Selects.addReg (x y : Reg) : Selects.Statement (.addReg x y) :=
  Selects.of_row ⟨"ADD_Vx__Vy", 0x8004#16, 0xF00F#16⟩ (by decide) rfl (mask_xys 0x8#4 (regBits x) (regBits y) 0x4#4)

theorem Selects.subReg (x y : Reg) : Selects.Statement (.subReg x y) :=
  Selects.of_row ⟨"SUB_Vx__Vy", 0x8005#16, 0xF00F#16⟩ (by decide) rfl (mask_xys 0x8#4 (regBits x) (regBits y) 0x5#4)

theorem Selects.shr (x : Reg) (y : Nibble) : Selects.Statement (.shr x y) :=
  Selects.of_row ⟨"SHR_Vx", 0x8006#16, 0xF00F#16⟩ (by decide) rfl (mask_xys 0x8#4 (regBits x) y 0x6#4)

theorem Selects.subnReg (x y : Reg) : Selects.Statement (.subnReg x y) :=
  Selects.of_row ⟨"SUBN_Vx__Vy", 0x8007#16, 0xF00F#16⟩ (by decide) rfl (mask_xys 0x8#4 (regBits x) (regBits y) 0x7#4)

theorem Selects.shl (x : Reg) (y : Nibble) : Selects.Statement (.shl x y) :=
  Selects.of_row ⟨"SHL_Vx", 0x800E#16, 0xF00F#16⟩ (by decide) rfl (mask_xys 0x8#4 (regBits x) y 0xE#4)

theorem Selects.sneReg (x y : Reg) (n : Nibble) : Selects.Statement (.sneReg x y n) :=
  Selects.of_row ⟨"SNE_Vx__Vy", 0x9000#16, 0xF000#16⟩ (by decide) rfl (mask_xyn 0x9#4 (regBits x) (regBits y) n)

theorem Selects.ldIndex (nnn : Addr12) : Selects.Statement (.ldIndex nnn) :=
  Selects.of_row ⟨"LD_I__NNN", 0xA000#16, 0xF000#16⟩ (by decide) rfl (mask_nnn 0xA#4 nnn)

theorem Selects.jpV0 (nnn : Addr12) : Selects.Statement (.jpV0 nnn) :=
  Selects.of_row ⟨"JP_V0__NNN", 0xB000#16, 0xF000#16⟩ (by decide) rfl (mask_nnn 0xB#4 nnn)

theorem Selects.rnd (x : Reg) (nn : Byte) : Selects.Statement (.rnd x nn) :=
  Selects.of_row ⟨"RND_Vx__NN", 0xC000#16, 0xF000#16⟩ (by decide) rfl (mask_xnn 0xC#4 (regBits x) nn)

theorem Selects.drw (x y : Reg) (n : Nibble) : Selects.Statement (.drw x y n) :=
  Selects.of_row ⟨"DRW_Vx__Vy__N", 0xD000#16, 0xF000#16⟩ (by decide) rfl (mask_xyn 0xD#4 (regBits x) (regBits y) n)

theorem Selects.skp (x : Reg) : Selects.Statement (.skp x) :=
  Selects.of_row ⟨"SKP_Vx", 0xE09E#16, 0xF0FF#16⟩ (by decide) rfl (mask_xss 0xE#4 (regBits x) 0x9E#8)

theorem Selects.sknp (x : Reg) : Selects.Statement (.sknp x) :=
  Selects.of_row ⟨"SKNP_Vx", 0xE0A1#16, 0xF0FF#16⟩ (by decide) rfl (mask_xss 0xE#4 (regBits x) 0xA1#8)

theorem Selects.ldVxDt (x : Reg) : Selects.Statement (.ldVxDt x) :=
  Selects.of_row ⟨"LD_Vx__DT", 0xF007#16, 0xF0FF#16⟩ (by decide) rfl (mask_xss 0xF#4 (regBits x) 0x07#8)

theorem Selects.ldVxKey (x : Reg) : Selects.Statement (.ldVxKey x) :=
  Selects.of_row ⟨"LD_Vx__K", 0xF00A#16, 0xF0FF#16⟩ (by decide) rfl (mask_xss 0xF#4 (regBits x) 0x0A#8)

theorem Selects.ldDtVx (x : Reg) : Selects.Statement (.ldDtVx x) :=
  Selects.of_row ⟨"LD_DT__Vx", 0xF015#16, 0xF0FF#16⟩ (by decide) rfl (mask_xss 0xF#4 (regBits x) 0x15#8)

theorem Selects.ldStVx (x : Reg) : Selects.Statement (.ldStVx x) :=
  Selects.of_row ⟨"LD_ST__Vx", 0xF018#16, 0xF0FF#16⟩ (by decide) rfl (mask_xss 0xF#4 (regBits x) 0x18#8)

theorem Selects.addIndex (x : Reg) : Selects.Statement (.addIndex x) :=
  Selects.of_row ⟨"ADD_I__Vx", 0xF01E#16, 0xF0FF#16⟩ (by decide) rfl (mask_xss 0xF#4 (regBits x) 0x1E#8)

theorem Selects.ldFont (x : Reg) : Selects.Statement (.ldFont x) :=
  Selects.of_row ⟨"LD_F__Vx", 0xF029#16, 0xF0FF#16⟩ (by decide) rfl (mask_xss 0xF#4 (regBits x) 0x29#8)

theorem Selects.ldBcd (x : Reg) : Selects.Statement (.ldBcd x) :=
  Selects.of_row ⟨"LD_B__Vx", 0xF033#16, 0xF0FF#16⟩ (by decide) rfl (mask_xss 0xF#4 (regBits x) 0x33#8)

theorem Selects.storeRegs (x : Reg) : Selects.Statement (.storeRegs x) :=
  Selects.of_row ⟨"LD__I___Vx", 0xF055#16, 0xF0FF#16⟩ (by decide) rfl (mask_xss 0xF#4 (regBits x) 0x55#8)

theorem Selects.loadRegs (x : Reg) : Selects.Statement (.loadRegs x) :=
  Selects.of_row ⟨"LD_Vx___I", 0xF065#16, 0xF0FF#16⟩ (by decide) rfl (mask_xss 0xF#4 (regBits x) 0x65#8)

end Sys2Proof.Laws
end

