-- ==== Sys2Proof/Tests/Slice0.lean ====
section
/-!
SUPPORT. Small tests and witnesses. Every expected result is taken from spec/ by hand: the vectors V1 to V183 and S8, S9 of
spec/95_test_vectors.md, the fields and the opcode list of spec/30_encoding.md. A test runs ONE step on a small state. A witness
shows a concrete state and operands that meet the hypotheses of a statement, at the boundary values of its clauses.
-/

namespace Sys2Proof.Tests

open Sys2Proof Sys2Proof.Machine

/-! ### Well-formed means canonical (R72, R74): an ill-formed term for each of the four checks -/

theorem test_wellFormed_seReg : (Instr.seReg 1 2 0).wellFormed = true ∧ (Instr.seReg 1 2 0xF).wellFormed = false := by decide
theorem test_wellFormed_sneReg : (Instr.sneReg 1 2 0).wellFormed = true ∧ (Instr.sneReg 1 2 1).wellFormed = false := by decide
theorem test_wellFormed_shr : (Instr.shr 1 0).wellFormed = true ∧ (Instr.shr 1 2).wellFormed = false := by decide
theorem test_wellFormed_shl : (Instr.shl 1 0).wellFormed = true ∧ (Instr.shl 1 0xF).wellFormed = false := by decide
theorem test_wellFormed_others : (Instr.drw 15 15 0xF).wellFormed = true ∧ Instr.cls.wellFormed = true := by decide

/-! ### Every constructor's decoding, from a word put together by hand from its pattern in R70 -/

theorem test_decode_cls : decode 0b0000000011100000#16 = .ok .cls := by decide
theorem test_decode_ret : decode 0b0000000011101110#16 = .ok .ret := by decide
theorem test_decode_jp : decode 0b0001101010111100#16 = .ok (.jp 0xABC) := by decide
theorem test_decode_call : decode 0b0010101010111100#16 = .ok (.call 0xABC) := by decide
theorem test_decode_seImm : decode 0b0011000100101010#16 = .ok (.seImm 1 0x2A) := by decide
theorem test_decode_sneImm : decode 0b0100000100101010#16 = .ok (.sneImm 1 0x2A) := by decide
theorem test_decode_seReg : decode 0b0101000100100001#16 = .ok (.seReg 1 2 1) := by decide
theorem test_decode_ldImm : decode 0b0110000100000101#16 = .ok (.ldImm 1 0x05) := by decide
theorem test_decode_addImm : decode 0b0111000100000011#16 = .ok (.addImm 1 0x03) := by decide
theorem test_decode_ldReg : decode 0b1000000100100000#16 = .ok (.ldReg 1 2) := by decide
theorem test_decode_orReg : decode 0b1000000100100001#16 = .ok (.orReg 1 2) := by decide
theorem test_decode_andReg : decode 0b1000000100100010#16 = .ok (.andReg 1 2) := by decide
theorem test_decode_xorReg : decode 0b1000000100100011#16 = .ok (.xorReg 1 2) := by decide
theorem test_decode_addReg : decode 0b1000101010110100#16 = .ok (.addReg 10 11) := by decide
theorem test_decode_subReg : decode 0b1000000100100101#16 = .ok (.subReg 1 2) := by decide
theorem test_decode_shr : decode 0b1000101010110110#16 = .ok (.shr 10 0xB) := by decide
theorem test_decode_subnReg : decode 0b1000000100100111#16 = .ok (.subnReg 1 2) := by decide
theorem test_decode_shl : decode 0b1000101010111110#16 = .ok (.shl 10 0xB) := by decide
theorem test_decode_sneReg : decode 0b1001101010111111#16 = .ok (.sneReg 10 11 0xF) := by decide
theorem test_decode_ldIndex : decode 0b1010001100000000#16 = .ok (.ldIndex 0x300) := by decide
theorem test_decode_jpV0 : decode 0b1011111111111111#16 = .ok (.jpV0 0xFFF) := by decide
theorem test_decode_rnd : decode 0b1100000100001111#16 = .ok (.rnd 1 0x0F) := by decide
theorem test_decode_drw : decode 0b1101000100100101#16 = .ok (.drw 1 2 5) := by decide
theorem test_decode_skp : decode 0b1110000110011110#16 = .ok (.skp 1) := by decide
theorem test_decode_sknp : decode 0b1110000110100001#16 = .ok (.sknp 1) := by decide
theorem test_decode_ldVxDt : decode 0b1111000100000111#16 = .ok (.ldVxDt 1) := by decide
theorem test_decode_ldVxKey : decode 0b1111111100001010#16 = .ok (.ldVxKey 15) := by decide
theorem test_decode_ldDtVx : decode 0b1111001000010101#16 = .ok (.ldDtVx 2) := by decide
theorem test_decode_ldStVx : decode 0b1111001100011000#16 = .ok (.ldStVx 3) := by decide
theorem test_decode_addIndex : decode 0b1111001000011110#16 = .ok (.addIndex 2) := by decide
theorem test_decode_ldFont : decode 0b1111000000101001#16 = .ok (.ldFont 0) := by decide
theorem test_decode_ldBcd : decode 0b1111000000110011#16 = .ok (.ldBcd 0) := by decide
theorem test_decode_storeRegs : decode 0b1111001001010101#16 = .ok (.storeRegs 2) := by decide
theorem test_decode_loadRegs : decode 0b1111000001100101#16 = .ok (.loadRegs 0) := by decide

/-- The undecodable words of table V-enc. -/
theorem test_decode_undecodable :
    [0x0000#16, 0x00E1#16, 0x01E0#16, 0x0200#16].map decode = List.replicate 4 (.error .noHandler0) ∧
    [0x8AB8#16, 0x8ABF#16].map decode = List.replicate 2 (.error .noHandler8) ∧
    decode 0xE19F#16 = .error .noHandlerE ∧
    [0xF066#16, 0xF075#16, 0xFFFF#16].map decode = List.replicate 3 (.error .noHandlerF) := by decide

/-- Bytes in memory order, high byte first (R43): `D1 25` is D125, and one byte alone is no instruction. -/
theorem test_decodeBytes :
    decodeBytes [0xD1, 0x25, 0x77] = .ok (.drw 1 2 5, [0x77]) ∧ decodeBytes [0xD1] = .error .truncated ∧
    encodeBytes (.drw 1 2 5) = [0xD1, 0x25] := by decide

/-- The host's two questions, on one row of the table. -/
theorem test_tableWord :
    decodeTableWord 16 0x8AB6 = some (.shr 10 0xB) ∧ decodeTableWord 16 0x8AB8 = none ∧
    (State.reset.withFetchWord 16 0xD125).byteAt 0x200 = 0xD1 ∧ (State.reset.withFetchWord 16 0xD125).byteAt 0x201 = 0x25 := by
  decide

/-! ### Helpers -/

/-- Some registers set. -/
def regs (l : List (Reg × Byte)) (s : State) : State := l.foldl (fun s p => s.setReg p.1 p.2) s

/-- Bytes placed at an address. -/
def bytes (a : Nat) (bs : List Byte) (s : State) : State := State.writeBytes a bs s

/-- The machine after Reset with `pc` moved, which the vectors leave arbitrary. -/
def atPc (a : Word) : State := State.reset.setPc a

/-- The state after one cycle of a word placed at `pc`. -/
def run (w : Nat) (s : State) : Option State :=
  match step (s.withFetchWord 16 w) with
  | .next t => some t
  | .fault _ => none
  | .refused _ => none

/-- The state after one event. -/
def event (e : HostEvent) (s : State) : Option State :=
  match step { s with schedule := [e] } with
  | .next t => some t
  | .fault _ => none
  | .refused _ => none

/-- Some keys down. -/
def keys (l : List Key) (s : State) : State := { s with key := l.foldl (fun k i => k.set i.val true i.isLt) s.key }

/-- The cells of one row that are on. -/
def rowOn (y : Fin 32) (s : State) : List Nat := ((List.finRange 64).filter (fun x => s.pixel y x)).map Fin.val

/-! ### Control transfer (V20 to V31, S9) -/

theorem test_jp_V20 : (run 0x1ABC (atPc 0x0200)).map (·.pc) = some 0x0ABC := by decide
theorem test_call_V23 :
    (run 0x2ABC (atPc 0x0204)).map (fun t => (t.stack[0], t.sp, t.pc)) = some (0x0206, 1, 0x0ABC) := by decide
theorem test_call_V25 :
    (run 0x2300 { atPc 0x0250 with sp := 16 }).map (fun t => (t.out, t.pc, t.sp, t.runState)) =
      some (.report (.stackOverflow 0x0250 0x2300), 0x0252, 16, .running) := by decide
theorem test_ret_V26 :
    (run 0x00EE { atPc 0x0300 with sp := 2, stack := State.reset.stack.set 1 0x0456 }).map
      (fun t => (t.sp, t.pc, t.stack[1])) = some (1, 0x0456, 0x0456) := by decide
theorem test_ret_V27 :
    (run 0x00EE (atPc 0x0300)).map (fun t => (t.out, t.runState, t.pc, t.sp, t.opcode)) =
      some (.report (.stackUnderflow 0x0300 0x00EE), .halted, 0x0302, 0, 0x00EE) := by decide
theorem test_jpV0_V29 : (run 0xBFFF (regs [(0, 0xFF)] (atPc 0x0200))).map (·.pc) = some 0x10FE := by decide
theorem test_jpV0_V30 : (run 0xB200 (regs [(0, 0x01), (2, 0x55)] (atPc 0x0200))).map (·.pc) = some 0x0201 := by decide

/-! ### Skips (V1 to V16) -/

theorem test_seImm_V1_V2 :
    (run 0x312A (regs [(1, 0x2A)] (atPc 0x0300))).map (·.pc) = some 0x0304 ∧
    (run 0x312A (regs [(1, 0x2B)] (atPc 0x0300))).map (·.pc) = some 0x0302 := by decide
theorem test_sneImm_V3_V4 :
    (run 0x412A (regs [(1, 0x2A)] (atPc 0x0300))).map (·.pc) = some 0x0302 ∧
    (run 0x412A (regs [(1, 0x2B)] (atPc 0x0300))).map (·.pc) = some 0x0304 := by decide
theorem test_seReg_V6_V15 :
    (run 0x5120 (regs [(1, 0x07), (2, 0x08)] (atPc 0x0300))).map (·.pc) = some 0x0302 ∧
    (run 0x512F (regs [(1, 0x07), (2, 0x07)] (atPc 0x0300))).map (·.pc) = some 0x0304 := by decide
theorem test_sneReg_V7_V8 :
    (run 0x9120 (regs [(1, 0x07), (2, 0x08)] (atPc 0x0300))).map (·.pc) = some 0x0304 ∧
    (run 0x9120 (regs [(1, 0x07), (2, 0x07)] (atPc 0x0300))).map (·.pc) = some 0x0302 := by decide
theorem test_skp_V9_V10 :
    (run 0xE59E (keys [10] (regs [(5, 0x0A)] (atPc 0x0300)))).map (·.pc) = some 0x0304 ∧
    (run 0xE59E (regs [(5, 0x0A)] (atPc 0x0300))).map (·.pc) = some 0x0302 := by decide
theorem test_sknp_V11_V12 :
    (run 0xE5A1 (keys [10] (regs [(5, 0x0A)] (atPc 0x0300)))).map (·.pc) = some 0x0302 ∧
    (run 0xE5A1 (regs [(5, 0x0A)] (atPc 0x0300))).map (·.pc) = some 0x0304 := by decide

/-! ### Loads, arithmetic, logic, shifts, random (V40 to V90) -/

/-- `V[1]`, `V[15]` after one cycle. -/
def oneAndFlag (w : Nat) (l : List (Reg × Byte)) : Option (Byte × Byte) :=
  (run w (regs l State.reset)).map (fun t => (t.reg 1, t.reg 15))

theorem test_ldImm_V41 : (run 0x6F00 (regs [(15, 0x01)] State.reset)).map (·.reg 15) = some 0x00 := by decide
theorem test_addImm_V43 : oneAndFlag 0x7101 [(1, 0xFF), (15, 0x00)] = some (0x00, 0x00) := by decide
theorem test_ldReg_V46 : oneAndFlag 0x8120 [(2, 0x7E)] = some (0x7E, 0x00) := by decide
theorem test_orReg_V47 : oneAndFlag 0x8121 [(1, 0x0F), (2, 0xF0), (15, 0x01)] = some (0xFF, 0x01) := by decide
theorem test_andReg_V48 : oneAndFlag 0x8122 [(1, 0x3C), (2, 0x0F)] = some (0x0C, 0x00) := by decide
theorem test_xorReg_V49 : oneAndFlag 0x8123 [(1, 0xFF), (2, 0x0F)] = some (0xF0, 0x00) := by decide
theorem test_addReg_V53_V78 :
    oneAndFlag 0x8124 [(1, 0x80), (2, 0x80)] = some (0x00, 0x01) ∧
    oneAndFlag 0x81F4 [(1, 0xF0), (15, 0x20)] = some (0x10, 0x01) := by decide
theorem test_addReg_V77 : (run 0x8F24 (regs [(15, 0x10), (2, 0x20)] State.reset)).map (·.reg 15) = some 0x00 := by decide
theorem test_subReg_V58_V59 :
    oneAndFlag 0x8125 [(1, 0x05), (2, 0x07)] = some (0xFE, 0x00) ∧
    oneAndFlag 0x8125 [(1, 0x33), (2, 0x33)] = some (0x00, 0x01) := by decide
theorem test_subnReg_V62_V63 :
    oneAndFlag 0x8127 [(1, 0x03), (2, 0x0A)] = some (0x07, 0x01) ∧
    oneAndFlag 0x8127 [(1, 0x0A), (2, 0x03)] = some (0xF9, 0x00) := by decide
theorem test_shr_V69_V85 :
    oneAndFlag 0x8106 [(1, 0xFF)] = some (0x7F, 0x01) ∧
    oneAndFlag 0x8126 [(1, 0x04), (2, 0xFF)] = some (0x02, 0x00) := by decide
theorem test_shr_V83 : (run 0x8F06 (regs [(15, 0x02)] State.reset)).map (·.reg 15) = some 0x00 := by decide
theorem test_shl_V71_V86 :
    oneAndFlag 0x810E [(1, 0x81)] = some (0x02, 0x01) ∧
    oneAndFlag 0x81FE [(1, 0x04), (15, 0xFF)] = some (0x08, 0x00) := by decide
theorem test_rnd_V89 : ∃ t, run 0xC100 State.reset = some t ∧ t.reg 1 = 0x00 :=
  ⟨_, rfl, BitVec.and_zero⟩

/-! ### Index register and memory (V100 to V124) -/

theorem test_ldIndex_V101 : (run 0xAFFF State.reset).map (·.index) = some 0x0FFF := by decide
theorem test_addIndex_V103 :
    (run 0xF21E (regs [(2, 0x05)] (State.reset.setIndex 0x0FFE))).map (fun t => (t.index, t.reg 15)) =
      some (0x1003, 0x00) := by decide
theorem test_addIndex_V104 :
    (run 0xF21E (regs [(2, 0x02)] (State.reset.setIndex 0xFFFF))).map (·.index) = some 0x0001 := by decide
theorem test_ldFont_V105_V107 :
    (run 0xF029 (regs [(0, 0x07)] State.reset)).map (·.index) = some 0x0023 ∧
    (run 0xF029 (regs [(0, 0x0F)] State.reset)).map (·.index) = some 0x004B := by decide
theorem test_ldBcd_V114 :
    (run 0xF033 (regs [(0, 0x80)] (State.reset.setIndex 0x0FFD))).map
      (fun t => [0xFFD, 0xFFE, 0xFFF].map t.byteAt) = some [0x01, 0x02, 0x08] := by decide
theorem test_ldBcd_V115 :
    (run 0xF033 (regs [(0, 0x80)] (State.reset.setIndex 0x0FFE))).map
      (fun t => (t.out, t.runState, t.pc, [0xFFE, 0xFFF].map t.byteAt)) =
      some (.report (.memRange 0x0200 (some 0xF033) 0x1000), .halted, 0x0202, [0x00, 0x00]) := by decide
theorem test_storeRegs_V116 :
    (run 0xF255 (regs [(0, 0x11), (1, 0x22), (2, 0x33), (3, 0x44)] (State.reset.setIndex 0x0400))).map
      (fun t => (t.index, [0x400, 0x401, 0x402, 0x403].map t.byteAt)) = some (0x0400, [0x11, 0x22, 0x33, 0x00]) := by decide
theorem test_storeRegs_V120 :
    (run 0xF055 (State.reset.setIndex 0x1234)).map (·.out) =
      some (.report (.memRange 0x0200 (some 0xF055) 0x1234)) := by decide
theorem test_loadRegs_V121 :
    (run 0xF265 (bytes 0x300 [0x02, 0x05, 0x04] (regs [(3, 0x77)] (State.reset.setIndex 0x0300)))).map
      (fun t => (t.index, [0, 1, 2, 3].map t.reg)) = some (0x0300, [0x02, 0x05, 0x04, 0x77]) := by decide
theorem test_loadRegs_V123 :
    (run 0xF165 (State.reset.setIndex 0x0FFF)).map (fun t => (t.out, t.runState)) =
      some (.report (.memRange 0x0200 (some 0xF165) 0x1000), .halted) := by decide

/-- A write of the byte an unlisted address reads as removes the entry: equal memories are equal data. -/
theorem test_memory_canonical :
    (bytes 0x300 [0x01, 0x02] State.reset).mem = [(0x300, 0x01), (0x301, 0x02)] ∧
    (bytes 0x300 [0x00] (bytes 0x300 [0x01, 0x02] State.reset)).mem = [(0x301, 0x02)] ∧
    (bytes 0x000 [0xF0] State.reset).mem = [] := by decide

/-! ### Display (V130 to V146) -/

theorem test_cls_V146 : (run 0x00E0 State.reset).map (fun t => (t.dirty, rowOn 0 t)) = some (true, []) := by decide
theorem test_drw_V132 :
    (run 0xD121 (bytes 0x300 [0xFF] (regs [(1, 0x3C), (2, 0x05), (15, 0x01)] (State.reset.setIndex 0x0300)))).map
      (fun t => (rowOn 5 t, t.reg 15, t.dirty)) = some ([60, 61, 62, 63], 0x00, true) := by decide
/-- The bit-order example of part V-drw: A1 at `x0 = 8`, `y0 = 2`. -/
theorem test_drw_bit_order :
    (run 0xD121 (bytes 0x300 [0xA1] (regs [(1, 0x08), (2, 0x02)] (State.reset.setIndex 0x0300)))).map
      (fun t => rowOn 2 t) = some [8, 10, 15] := by decide

/-! ### Timers and keypad (V150 to V162) -/

theorem test_ldVxDt_V150 : (run 0xF107 { State.reset with dt := 0x02 }).map (fun t => (t.reg 1, t.dt)) = some (0x02, 0x02) := by
  decide
theorem test_ldDtVx_V151 : (run 0xF015 (regs [(0, 0x03)] { State.reset with dt := 0x50 })).map (·.dt) = some 0x03 := by decide
theorem test_ldStVx_V152 :
    (run 0xF318 (regs [(3, 0x1E)] State.reset)).map (fun t => (t.st, t.toneOn)) = some (0x1E, true) := by decide
theorem test_ldVxKey_V157 :
    (run 0xF00A (regs [(0, 0x77)] State.reset)).map (fun t => (t.pc, t.reg 0, t.opcode, t.out)) =
      some (0x0200, 0x77, 0xF00A, .report .none) := by decide
theorem test_ldVxKey_V158 :
    (run 0xF00A (keys [9, 3] State.reset)).map (fun t => (t.reg 0, t.pc)) = some (0x03, 0x0202) := by decide

/-! ### The engine and the other events (S8, V153 to V183) -/

theorem test_S8_first_cycle :
    (run 0x6105 State.reset).map (fun t => (t.opcode, t.reg 1, t.pc, t.out)) =
      some (0x6105, 0x05, 0x0202, .report .none) := by decide
theorem test_undecodable_V182 :
    (event .cycle State.reset).map (fun t => (t.out, t.pc, t.runState)) =
      some (.report (.undecodable 0x0200 0x0000), 0x0202, .running) := by decide
theorem test_fetch_V175 : (run 0x6105 (atPc 0x0FFE)).map (fun t => (t.reg 1, t.pc)) = some (0x05, 0x1000) := by decide
theorem test_fetch_V177 :
    (event .cycle (atPc 0x0FFF)).map (fun t => (t.out, t.pc, t.runState)) =
      some (.report (.memRange 0x0FFF none 0x0FFF), 0x0FFF, .halted) := by decide
theorem test_paused_V170 :
    (event .cycle (bytes 0x200 [0x61, 0x05] { State.reset with runState := .paused })).map (fun t => (t.pc, t.reg 1, t.out)) =
      some (0x0200, 0x00, .report .none) := by decide
theorem test_setRunState_V171_V173 :
    (event (.setRunState .running) { State.reset with runState := .paused }).map (·.runState) = some .running ∧
    (event (.setRunState .running) { State.reset with runState := .halted }).map (·.runState) = some .halted := by decide
theorem test_tick_V153_V154 :
    (event .tick { State.reset with dt := 0x03, st := 0x01 }).map (fun t => (t.dt, t.st)) = some (0x02, 0x00) ∧
    (event .tick State.reset).map (fun t => (t.dt, t.st)) = some (0x00, 0x00) := by decide
theorem test_keySet_V162 : (event (.keySet 3 false) (keys [3] State.reset)).map (fun t => t.keyDown 3) = some false := by decide
theorem test_dirtyClear_V178 : (event .dirtyClear { State.reset with dirty := true }).map (·.dirty) = some false := by decide
theorem test_reset_V179 :
    (event (.reset defaultFont) (bytes 0x300 [0x01] { State.reset with runState := .halted, dt := 0x05 })).map
      (fun t => (t.runState, t.dt, t.byteAt 0x300, t.pc)) = some (.running, 0x00, 0x00, 0x0200) := by decide
theorem test_loadImage_S8 :
    (event (.loadImage (some [0x61, 0x05, 0x71, 0x03])) State.reset).map
      (fun t => (t.out, [0x200, 0x201, 0x202, 0x203].map t.byteAt)) = some (.load .ok, [0x61, 0x05, 0x71, 0x03]) := by decide
theorem test_loadImage_late : step { State.reset with booting := false, schedule := [.loadImage (some [])] } = .refused .lateLoad := rfl

/-! ### Witnesses: the hypotheses of each statement are met, clause by clause, at boundary values -/

/-- A running machine about to fetch a word at `pc`. -/
def fetching (w : Nat) (a : Word) : State := (atPc a).withFetchWord 16 w

theorem witness_EncodeUndoesDecode : decode 0xF165#16 = .ok (.loadRegs 1) := by decide

theorem witness_DispatchAgreesWithOpcodeList :
    (⟨"SHR_Vx", 0x8006#16, 0xF00F#16⟩ : OpcodeRow) ∈ opcodeTable ∧
    OpcodeRow.selects ⟨"SHR_Vx", 0x8006#16, 0xF00F#16⟩ 0x8AB6#16 = true ∧
    decode 0x8AB6#16 = .ok (.shr 10 0xB) ∧ decode 0x8AB8#16 = .error .noHandler8 := by decide

theorem witness_StepRunsTheDecodedInstruction :
    let s := fetching 0x6105 0x0FFE
    s.AboutToFetch ∧ decode (s.byteAt s.pc.toNat ++ s.byteAt (s.pc.toNat + 1)) = .ok (.ldImm 1 0x05) := by
  unfold State.AboutToFetch; decide

theorem witness_UndecodableWordIsAReportedNoOp :
    let s := fetching 0x0000 0x0FFE
    s.AboutToFetch ∧ decode (s.byteAt s.pc.toNat ++ s.byteAt (s.pc.toNat + 1)) = .error .noHandler0 := by
  unfold State.AboutToFetch; decide

theorem witness_FetchOutOfRangeHalts :
    (atPc 0x0FFF).nextEvent = .cycle ∧ (atPc 0x0FFF).runState = .running ∧ 0x0FFE < (atPc 0x0FFF).pc.toNat := by decide

theorem witness_CycleWhileNotRunningChangesNothing :
    let s : State := { State.reset with runState := .paused }
    let t : State := { State.reset with runState := .halted }
    s.nextEvent = .cycle ∧ s.runState ≠ .running ∧ t.nextEvent = .cycle ∧ t.runState ≠ .running := by decide

theorem witness_EveryStepAnswers :
    let s : State := { State.reset with schedule := [.loadImage none] }
    let t : State := { s with booting := false }
    (∀ source, s.nextEvent = .loadImage source → s.booting = true) ∧
    (∀ source, State.reset.nextEvent = .loadImage source → State.reset.booting = true) ∧
    t.nextEvent = .loadImage none ∧ t.booting = false :=
  ⟨fun _ _ => rfl, fun _ h => HostEvent.noConfusion h, rfl, rfl⟩

/-- The three clauses: an instruction, an undecodable word, a fetch out of range. -/
theorem witness_PcAfterEachInstruction :
    let s := fetching 0x3000 0x0FFE
    let u := fetching 0x0000 0x0FFE
    (s.AboutToFetch ∧ decode (s.byteAt s.pc.toNat ++ s.byteAt (s.pc.toNat + 1)) = .ok (.seImm 0 0x00) ∧
      ∃ t, step s = .next t) ∧
    (u.AboutToFetch ∧ decode (u.byteAt u.pc.toNat ++ u.byteAt (u.pc.toNat + 1)) = .error .noHandler0 ∧
      ∃ t, step u = .next t) ∧ ∃ t, step (atPc 0x0FFF) = .next t := by
  refine ⟨⟨by unfold State.AboutToFetch; decide, by decide, _, rfl⟩, ⟨by unfold State.AboutToFetch; decide, by decide, _, rfl⟩,
    _, rfl⟩

/-- A return on an empty stack fetched from the highest address, and a fetch from just above it. -/
theorem witness_FatalConditionsArePrecise :
    (fetching 0x00EE 0x0FFE).AboutToFetch ∧ (∃ t, step (fetching 0x00EE 0x0FFE) = .next t ∧ t.runState = .halted) ∧
    (atPc 0x0FFF).nextEvent = .cycle ∧ 0x0FFE < (atPc 0x0FFF).pc.toNat ∧ ∃ t, step (atPc 0x0FFF) = .next t :=
  ⟨by unfold State.AboutToFetch; decide, ⟨_, rfl, rfl⟩, by decide, by decide, _, rfl⟩

theorem witness_ConditionsAnInstructionCanRaise :
    (∃ t, exec .ret State.reset = .next t) ∧ (∃ t, exec (.call 0x300) { State.reset with sp := 16 } = .next t) ∧
    (∃ t, exec (.ldBcd 0) (State.reset.setIndex 0x0FFE) = .next t) ∧ ∃ t, exec .cls State.reset = .next t :=
  ⟨⟨_, rfl⟩, ⟨_, rfl⟩, ⟨_, rfl⟩, _, rfl⟩

theorem witness_WhoWritesWhat :
    let s : State := { State.reset with dirty := true }
    (∃ t, exec (.ldImm 1 0x05) s = .next t) ∧ s.dirty = true ∧
    writesIndex (.ldImm 1 0x05) = false ∧ movesSp (.ldImm 1 0x05) = false ∧ writesDisplay (.ldImm 1 0x05) = false ∧
    writesMemory (.ldImm 1 0x05) = false ∧ (∀ nnn, Instr.ldImm 1 0x05 ≠ .call nnn) ∧
    (∀ x, Instr.ldImm 1 0x05 ≠ .ldDtVx x) ∧ (∀ x, Instr.ldImm 1 0x05 ≠ .ldStVx x) :=
  ⟨⟨_, rfl⟩, rfl, rfl, rfl, rfl, rfl, fun _ h => Instr.noConfusion h, fun _ h => Instr.noConfusion h,
    fun _ h => Instr.noConfusion h⟩

theorem witness_InstructionsWriteOnlyTheirRegisters :
    (∃ t, exec (.addReg 15 2) State.reset = .next t) ∧ writesFlag (.addReg 15 2) = true ∧
    (∃ t, exec (.drw 1 2 3) (State.reset.setIndex 0x0FFE) = .next t) ∧ writesFlag (.drw 1 2 3) = true :=
  ⟨⟨_, rfl⟩, rfl, ⟨_, rfl⟩, rfl⟩

theorem witness_HaltedIsLeftOnlyByReset :
    let s : State := { State.reset with runState := .halted }
    s.runState = .halted ∧ s.nextEvent = .cycle ∧ (∃ t, step s = .next t) ∧
    ∃ t, step { s with schedule := [.setRunState .running] } = .next t := ⟨rfl, rfl, ⟨_, rfl⟩, _, rfl⟩

theorem witness_PresentationTimingIsUnobservable :
    State.nextEvent { State.reset with schedule := [.dirtyClear] } = .dirtyClear ∧ ∃ t, exec .cls State.reset = .next t :=
  ⟨rfl, _, rfl⟩

theorem witness_SoundTimerAndOpcodeAreUnreadable : ∃ t, exec .ret State.reset = .next t := ⟨_, rfl⟩

theorem witness_TickCountsBothTimersDown :
    State.nextEvent { State.reset with schedule := [.tick], dt := 0x00, st := 0xFF } = .tick := rfl

theorem witness_KeySetSetsOneFlag :
    State.nextEvent { State.reset with schedule := [.keySet 15 true] } = .keySet 15 true ∧ (0 : Key) ≠ 15 ∧
    ∃ t, exec .cls State.reset = .next t := ⟨rfl, by decide, _, rfl⟩

theorem witness_SetRunStateNeverLeavesHalted :
    let s : State := { State.reset with schedule := [.setRunState .running], runState := .halted }
    let u : State := { State.reset with schedule := [.setRunState .halted] }
    s.nextEvent = .setRunState .running ∧ s.runState = .halted ∧
    u.nextEvent = .setRunState .halted ∧ u.runState ≠ .halted := by decide

/-- The empty image, the longest one (3584 bytes), one byte more, and an unreadable source. -/
theorem witness_LoadImageCopiesTheImage :
    let s (source : Option (List Byte)) : State := { State.reset with schedule := [.loadImage source] }
    (s (some [])).booting = true ∧ (s (some [])).nextEvent = .loadImage (some []) ∧ ([] : List Byte).length ≤ 3584 ∧
    (s (some (List.replicate 3584 0x01))).nextEvent = .loadImage (some (List.replicate 3584 0x01)) ∧
    (List.replicate 3584 (0x01 : Byte)).length ≤ 3584 ∧
    (s (some (List.replicate 3585 0x01))).nextEvent = .loadImage (some (List.replicate 3585 0x01)) ∧
    3584 < (List.replicate 3585 (0x01 : Byte)).length ∧ (s none).nextEvent = .loadImage none :=
  ⟨rfl, rfl, Nat.zero_le _, rfl, Nat.le_of_eq List.length_replicate, rfl,
    Nat.lt_of_lt_of_eq (Nat.lt_succ_self 3584) List.length_replicate.symm, rfl⟩

/-- A font at the highest base the parameter allows, 0x1B0. -/
theorem witness_ResetEventRestoresEverything :
    let f : Font := { defaultFont with base := 0x1B0 }
    State.nextEvent { State.reset with schedule := [.reset f], runState := .halted } = .reset f ∧ f.base.val + 80 = 0x200 := by
  decide

theorem witness_StepKeepsMemoryCanonical :
    let s := bytes 0xFFF [0x01] (fetching 0xF055 0x0200)
    s.MemCanonical ∧ s.mem ≠ [] ∧ ∃ t, step s = .next t := ⟨by unfold State.MemCanonical; decide, by decide, _, rfl⟩

/-- The largest `pc` and the largest return address. -/
theorem witness_StepKeepsPcBounded :
    let s : State := { atPc 0x10FE with stack := State.reset.stack.set 15 0x1000 }
    s.PcBounded ∧ ∃ t, step s = .next t := ⟨by unfold State.PcBounded; decide, _, rfl⟩

/-- In range for the last byte of memory, out of range by one byte, and no byte at all at the top of the 16-bit range. -/
theorem witness_DrwDrawsTheClippedSprite :
    let s := bytes 0xFFE [0x80, 0x80] (State.reset.setIndex 0x0FFE)
    (s.index.toNat + (2#4).toNat - 1 ≤ 0xFFF) ∧ (s.spritePixel 0 0 2 0 0 = true ∧ s.pixel 0 0 = false) ∧
    ((3#4).toNat ≠ 0 ∧ 0xFFF < s.index.toNat + (3#4).toNat - 1) ∧
    ((0#4).toNat = 0 ∧ (State.reset.setIndex 0xFFFF).index.toNat = 0xFFFF) := by decide

/-- A collision: a set sprite bit on a cell that is on. -/
theorem witness_DrwDrawsTheClippedSprite_collision :
    let s : State := { bytes 0x300 [0x80] (State.reset.setIndex 0x0300) with fb := Framebuffer.blank.setCell 31 63 true }
    s.index.toNat + (1#4).toNat - 1 ≤ 0xFFF ∧ s.spritePixel 63 31 1 31 63 = true ∧ s.pixel 31 63 = true := by decide

theorem witness_DrawingTwiceErases :
    let s := bytes 0xFFF [0x80] (State.reset.setIndex 0x0FFF)
    s.index.toNat + (1#4).toNat - 1 ≤ 0xFFF ∧ (∃ r c, s.spritePixel 0 0 1 r c = true) ∧
    ∀ r c, s.spritePixel 0 0 1 r c = true → s.pixel r c = false :=
  ⟨by decide, ⟨0, 0, by decide⟩, fun r c _ => Framebuffer.cell_blank r c⟩

/-- One entry, a full stack, an empty one. -/
theorem witness_RetPopsOrUnderflows :
    State.reset.sp.val = 0 ∧ (({ State.reset with sp := 1 } : State).sp.val = (0 : Fin 16).val + 1) ∧
    (({ State.reset with sp := 16 } : State).sp.val = (15 : Fin 16).val + 1) := by decide

/-- The last free slot and the full stack. -/
theorem witness_CallPushesOrReports :
    (({ State.reset with sp := 15 } : State).sp.val = (15 : Fin 16).val) ∧ (({ State.reset with sp := 16 } : State).sp.val = 16) := by
  decide

theorem witness_ImmediateSkips : State.reset.reg 15 = 0x00#8 ∧ State.reset.reg 15 ≠ 0xFF#8 := by decide

theorem witness_RegisterSkips :
    let s := regs [(1, 0x01)] State.reset
    s.reg 2 = s.reg 3 ∧ s.reg 1 ≠ s.reg 2 := by decide

/-- The highest key number and the first value that numbers no key. -/
theorem witness_KeySkips :
    (regs [(5, 0x0F)] State.reset).reg 5 = BitVec.ofNat 8 (15 : Key).val ∧ ((0x0F#8).toNat = (15 : Key).val) ∧
    15 < ((regs [(5, 0x10)] State.reset).reg 5).toNat := by decide

theorem witness_AddRegAddsAndSetsCarry :
    (1 : Reg) ≠ 15 ∧ ((regs [(1, 0xFF), (2, 0x01)] State.reset).reg 1).toNat + ((regs [(1, 0xFF), (2, 0x01)] State.reset).reg 2).toNat
      = 256 := by decide

theorem witness_SubRegSubtractsAndSetsNotBorrow : (1 : Reg) ≠ 15 ∧ State.reset.reg 1 = State.reset.reg 2 := by decide

theorem witness_SubnRegSubtractsTheOtherWay : (14 : Reg) ≠ 15 ∧ State.reset.reg 14 = State.reset.reg 2 := by decide

theorem witness_ShiftsMoveOneBit : (1 : Reg) ≠ 15 := by decide

theorem witness_LdFontPointsAtTheGlyph :
    ((regs [(0, 0x0F)] State.reset).reg 0).toNat ≤ 15 ∧ 15 < ((regs [(0, 0x10)] State.reset).reg 0).toNat := by decide

theorem witness_LdBcdStoresThreeDigits :
    (State.reset.setIndex 0x0FFD).index.toNat + 2 ≤ 0xFFF ∧ 0xFFF < (State.reset.setIndex 0x0FFE).index.toNat + 2 := by decide

theorem witness_StoreRegsStoresTheBlock :
    (State.reset.setIndex 0x0FF0).index.toNat + (15 : Reg).val ≤ 0xFFF ∧
    0xFFF < (State.reset.setIndex 0x0FF1).index.toNat + (15 : Reg).val := by decide

theorem witness_LoadRegsLoadsTheBlock :
    (State.reset.setIndex 0x0FFF).index.toNat + (0 : Reg).val ≤ 0xFFF ∧
    0xFFF < (State.reset.setIndex 0x0FFF).index.toNat + (1 : Reg).val := by decide

theorem witness_StoreThenLoadRestoresRegisters : (State.reset.setIndex 0x0FF0).index.toNat + (15 : Reg).val ≤ 0xFFF := by decide

/-- The two highest bytes of memory, stored by the instruction before them (the program P6 at the top of memory). -/
theorem witness_StoredWordRunsNext :
    let s := regs [(0, 0x12), (1, 0x08)] ((atPc 0x0FFE).setIndex 0x0FFE)
    (1 : Reg).val = (0 : Reg).val + 1 ∧ (1 : Reg) ≤ 1 ∧ s.index.toNat + (1 : Reg).val ≤ 0xFFF ∧
    s.pc.toNat = s.index.toNat + (0 : Reg).val ∧ s.runState = .running ∧ s.nextEvent = .cycle ∧
    decode (s.reg 0 ++ s.reg 1) = .ok (.jp 0x208) := by decide

/-- The highest key alone, and no key. -/
theorem witness_LdVxKeyTakesTheLeastKey :
    let s := keys [15] State.reset
    s.keyDown 15 = true ∧ (∀ j, j < (15 : Key) → s.keyDown j = false) ∧ ∀ k, State.reset.keyDown k = false := by decide

end Sys2Proof.Tests
end

