-- ==== Sys2Proof/Proofs/Fields.lean ====
section
/-!
PROOFS. The decoder's fields as numbers and as runs of bits of the word (spec/30_encoding.md R62). The numbers of the fields
above bit 0 come from `extract_toNat`, the overlaps from the fact that adjacent runs of bits, side by side, are one run.
-/

namespace Sys2Proof.Laws

/-! ### Each field as a number -/

/-- No reduction modulo 16: nothing lies above bit 15. -/
theorem fieldP_toNat (w : Word) : (fieldP w).toNat = w.toNat / 4096 := by
  have numbered_bits : (fieldP w).toNat = w.toNat / 4096 % 16 := extract_toNat w 12 4
  have nothing_above : w.toNat / 4096 < 16 := by omega
  rw [numbered_bits, Nat.mod_eq_of_lt nothing_above]

theorem fieldX_val (w : Word) : (fieldX w).val = w.toNat / 256 % 16 :=
  extract_toNat w 8 4

theorem fieldY_val (w : Word) : (fieldY w).val = w.toNat / 16 % 16 :=
  extract_toNat w 4 4

theorem fieldN_toNat (w : Word) : (fieldN w).toNat = w.toNat % 16 := by
  simp [fieldN]

theorem fieldNN_toNat (w : Word) : (fieldNN w).toNat = w.toNat % 256 := by
  simp [fieldNN]

theorem fieldNNN_toNat (w : Word) : (fieldNNN w).toNat = w.toNat % 4096 := by
  simp [fieldNNN]

/-! ### The overlaps -/

theorem regBits_fieldX (w : Word) : regBits (fieldX w) = w.extractLsb' 8 4 := rfl

theorem regBits_fieldY (w : Word) : regBits (fieldY w) = w.extractLsb' 4 4 := rfl

/-- X and Y side by side are bits 11 to 4. -/
theorem regBits_fieldX_append_fieldY (w : Word) :
    regBits (fieldX w) ++ regBits (fieldY w) = w.extractLsb' 4 8 := by
  rw [regBits_fieldX, regBits_fieldY]
  exact BitVec.extractLsb'_append_extractLsb'_eq_extractLsb' rfl

theorem fieldNN_eq_append (w : Word) : fieldNN w = regBits (fieldY w) ++ fieldN w := by
  rw [regBits_fieldY, fieldNN, fieldN]
  symm
  exact BitVec.extractLsb'_append_extractLsb'_eq_extractLsb' rfl

theorem fieldNNN_eq_append (w : Word) : fieldNNN w = regBits (fieldX w) ++ regBits (fieldY w) ++ fieldN w := by
  rw [regBits_fieldX_append_fieldY, fieldNNN, fieldN]
  symm
  exact BitVec.extractLsb'_append_extractLsb'_eq_extractLsb' rfl

/-- Settles O2: six numbers and two overlaps, each a lemma above. -/
theorem fieldsAreTheNumberedBits : Obligations.FieldsAreTheNumberedBits := by
  intro w
  exact ⟨fieldP_toNat w, fieldX_val w, fieldY_val w, fieldN_toNat w, fieldNN_toNat w, fieldNNN_toNat w,
    fieldNN_eq_append w, fieldNNN_eq_append w⟩

end Sys2Proof.Laws
end

