-- ==== Sys2Proof/Proofs/CycleEngine.lean ====
section
/-!
PROOFS. The cycle of a word that does not decode (spec/40_cycle_engine.md R86): dispatch reports it on the state a handler
would start from, and that state's instruction address is the address of the fetch.
-/

namespace Sys2Proof.Machine

/-- The address a report names (R165), read after the advance (R83). -/
theorem State.iaddr_handlerStart (s : State) : s.handlerStart.iaddr = s.pc := add_two_sub_two s.pc

/-- Reporting after the advance names the address and the word of the fetch, and writes the report alone (R86, R163). -/
theorem State.reportUndecodable_handlerStart (s : State) :
    s.handlerStart.reportUndecodable = { s.handlerStart with
      out := .report (.undecodable s.pc (s.byteAt s.pc.toNat ++ s.byteAt (s.pc.toNat + 1))) } := by
  rw [State.reportUndecodable, State.iaddr_handlerStart]
  rfl

/-- A fetched word that does not decode is reported, and no handler runs (R86). -/
theorem step_of_undecodable {s : State} {e : DecodeError} (hfetch : s.AboutToFetch)
    (hword : decode (s.byteAt s.pc.toNat ++ s.byteAt (s.pc.toNat + 1)) = .error e) :
    step s = .next s.handlerStart.reportUndecodable := by
  have hopcode : decode s.handlerStart.opcode = .error e := hword
  rw [step_of_aboutToFetch hfetch, dispatchWord_of_error hopcode]

/-- Settles O9: the step reports on the handler's start, which the fetch left Running with the same registers and memory. -/
theorem undecodableWordIsAReportedNoOp : Obligations.UndecodableWordIsAReportedNoOp := by
  intro s e hfetch hword
  have hstep := step_of_undecodable hfetch hword
  obtain ⟨-, hrunning, -⟩ := hfetch
  exact ⟨s.handlerStart.reportUndecodable, hstep, hrunning, fun _ _ => rfl, fun _ => rfl,
    s.reportUndecodable_handlerStart⟩

end Sys2Proof.Machine
end

