-- ==== Sys2Proof/Proofs/ControlFlow.lean ====
section
/-!
PROOFS. The two jumps (spec/41_control_flow.md R91, R93). Each answers the state with one write of `pc`, so its frame is that of
the write, and what is left is the number written.
-/

namespace Sys2Proof.Machine

theorem exec_jp (nnn : Addr12) (s : State) : exec (.jp nnn) s = .next (s.setPc (addrOf nnn)) := rfl

theorem exec_jpV0 (nnn : Addr12) (s : State) :
    exec (.jpV0 nnn) s = .next (s.setPc (addrOf nnn + s.regWord 0)) := rfl

/-- An instruction that answers with one write of `pc` puts that number into `pc` and changes nothing else. -/
theorem jumps_of_exec_eq_setPc {i : Instr} {s : State} {a : Word} {n : Nat}
    (hexec : exec i s = .next (s.setPc a)) (ha : a.toNat = n) :
    ∃ t, exec i s = .next t ∧ t.pc.toNat = n ∧ OnlyPc s t := by
  have hpc : (s.setPc a).pc.toNat = n := by rw [State.setPc_pc, ha]
  exact ⟨s.setPc a, hexec, hpc, s.onlyPc_setPc a⟩

/-- Settles O34: the value written is NNN zero-extended, the same number. -/
theorem jpJumpsToItsAddress : Obligations.JpJumpsToItsAddress := by
  intro nnn s
  have hencode : encode (.jp nnn) = 0x1#4 ++ nnn := rfl
  exact ⟨hencode, jumps_of_exec_eq_setPc (exec_jp nnn s) (addrOf_toNat nnn)⟩

/-- Settles O36: a 12-bit address plus a byte stays below 2^16, so the 16-bit sum is the sum of the numbers. -/
theorem jpV0AddsRegisterZero : Obligations.JpV0AddsRegisterZero := by
  intro nnn s
  have hencode : encode (.jpV0 nnn) = 0xB#4 ++ nnn := rfl
  exact ⟨hencode, jumps_of_exec_eq_setPc (exec_jpV0 nnn s) (addrOf_add_regWord_toNat nnn s 0)⟩

end Sys2Proof.Machine
end

