-- ==== Sys2Proof/Proofs/Skips.lean ====
section
/-!
PROOFS. The skips on an immediate (spec/42_skips.md R100 to R102). Each answers the state with one conditional skip, so its frame
is that of the skip, and what is left is which condition the tested bit stands for.
-/

namespace Sys2Proof.Machine

theorem exec_seImm (x : Reg) (nn : Byte) (s : State) : exec (.seImm x nn) s = .next (s.skipIf (s.reg x == nn)) := rfl

theorem exec_sneImm (x : Reg) (nn : Byte) (s : State) : exec (.sneImm x nn) s = .next (s.skipIf (s.reg x != nn)) := rfl

theorem State.skipIf_pc_of_taken {c : Bool} (s : State) (htaken : c = true) : (s.skipIf c).pc = s.pc + 2#16 := by
  rw [State.skipIf_pc, htaken, if_pos rfl]

theorem State.skipIf_pc_of_not_taken {c : Bool} (s : State) (hnot : c = false) : (s.skipIf c).pc = s.pc := by
  rw [State.skipIf_pc, hnot, if_neg Bool.false_ne_true]

/-- An instruction that answers with one conditional skip moves `pc` by 2 under every proposition that makes the tested bit
true, leaves it under every one that makes the bit false, and changes nothing else either way (R100). -/
theorem skips_of_exec_eq_skipIf {i : Instr} {s : State} {c : Bool} {taken notTaken : Prop}
    (hexec : exec i s = .next (s.skipIf c)) (htaken : taken → c = true) (hnot : notTaken → c = false) :
    ∃ t, exec i s = .next t ∧ OnlyPc s t ∧ (taken → t.pc = s.pc + 2#16) ∧ (notTaken → t.pc = s.pc) :=
  ⟨s.skipIf c, hexec, s.onlyPc_skipIf c, fun h => s.skipIf_pc_of_taken (htaken h),
    fun h => s.skipIf_pc_of_not_taken (hnot h)⟩

/-- Settles O37: the bit `SE` tests is true exactly on equality, the bit `SNE` tests exactly on difference. -/
theorem immediateSkips : Obligations.ImmediateSkips := by
  intro x nn s
  have hencodeSe : encode (.seImm x nn) = 0x3#4 ++ regBits x ++ nn := rfl
  have hencodeSne : encode (.sneImm x nn) = 0x4#4 ++ regBits x ++ nn := rfl
  exact ⟨hencodeSe, hencodeSne,
    skips_of_exec_eq_skipIf (exec_seImm x nn s) beq_iff_eq.mpr beq_eq_false_iff_ne.mpr,
    skips_of_exec_eq_skipIf (exec_sneImm x nn s) bne_iff_ne.mpr bne_eq_false_iff_eq.mpr⟩

end Sys2Proof.Machine
end

