-- ==== Sys2Proof/Proofs/Alu.lean ====
section
/-!
PROOFS. The two loads, the register addition and the two subtractions (spec/43_alu.md R110 to R121). A load answers with one
register write, an arithmetic instruction with a result and then a flag, so each frame is that of the write, and what is left is
the byte arithmetic as arithmetic of numbers.
-/

namespace Sys2Proof.Machine

/-! ### What each instruction answers -/

theorem exec_ldImm (x : Reg) (nn : Byte) (s : State) : exec (.ldImm x nn) s = .next (s.setReg x nn) := rfl

theorem exec_ldReg (x y : Reg) (s : State) : exec (.ldReg x y) s = .next (s.setReg x (s.reg y)) := rfl

theorem exec_addReg (x y : Reg) (s : State) :
    exec (.addReg x y) s = .next (s.setResultAndFlag x (s.reg x + s.reg y) (carryFlag (s.reg x) (s.reg y))) := rfl

theorem exec_subReg (x y : Reg) (s : State) :
    exec (.subReg x y) s = .next (s.setResultAndFlag x (s.reg x - s.reg y) (notBorrowFlag (s.reg x) (s.reg y))) := rfl

theorem exec_subnReg (x y : Reg) (s : State) :
    exec (.subnReg x y) s = .next (s.setResultAndFlag x (s.reg y - s.reg x) (notBorrowFlag (s.reg y) (s.reg x))) := rfl

/-! ### Results and flags as numbers -/

/-- The spec's difference modulo 256, with the 256 added before the subtraction so that it is exact on numbers (R110). -/
theorem byte_sub_toNat (a b : Byte) : (a - b).toNat = (a.toNat + 256 - b.toNat) % 256 := by
  rw [BitVec.toNat_sub]
  have hb : b.toNat < 256 := b.isLt
  omega

theorem flagByte_toNat (c : Bool) : (flagByte c).toNat = if c then 1 else 0 := by
  cases c <;> rfl

theorem carryFlag_toNat (a b : Byte) : (carryFlag a b).toNat = if a.toNat + b.toNat > 255 then 1 else 0 := by
  simp only [carryFlag, flagByte_toNat, decide_eq_true_eq]

theorem notBorrowFlag_toNat (a b : Byte) : (notBorrowFlag a b).toNat = if a.toNat ≥ b.toNat then 1 else 0 := by
  simp only [notBorrowFlag, flagByte_toNat, decide_eq_true_eq, ge_iff_le]

/-! ### What the two shared writes leave in the registers -/

/-- The result stays where it was written unless the flag, written last, overwrites it (R111). -/
theorem State.reg_setResultAndFlag_result {x : Reg} (hx : x ≠ 15) (result flag : Byte) (s : State) :
    (s.setResultAndFlag x result flag).reg x = result := by
  rw [State.reg_setResultAndFlag, flagReg_eq, if_neg hx, if_pos rfl]

/-- The flag is written last, so it stays in `V[15]` whatever the destination (R111). -/
theorem State.reg_setResultAndFlag_flag (x : Reg) (result flag : Byte) (s : State) :
    (s.setResultAndFlag x result flag).reg 15 = flag := by
  rw [State.reg_setResultAndFlag, flagReg_eq, if_pos rfl]

/-- An instruction that answers with one register write puts that byte there and changes nothing else. -/
theorem loads_of_exec_eq_setReg {i : Instr} {s : State} {x : Reg} {b : Byte} (hexec : exec i s = .next (s.setReg x b)) :
    ∃ t, exec i s = .next t ∧ t.reg x = b ∧ OnlyRegs [x] s t :=
  ⟨s.setReg x b, hexec, s.reg_setReg_self x b, s.onlyRegs_setReg x b⟩

/-- An instruction that answers with a result and a flag leaves the number `n` of the result in its destination, unless that is
`V[15]`, the number `f` of the flag in `V[15]`, and everything else unchanged (R111). -/
theorem computes_of_exec_eq_setResultAndFlag {i : Instr} {s : State} {x : Reg} {result flag : Byte} {n f : Nat}
    (hexec : exec i s = .next (s.setResultAndFlag x result flag)) (hresult : result.toNat = n) (hflag : flag.toNat = f) :
    ∃ t, exec i s = .next t ∧ (x ≠ 15 → (t.reg x).toNat = n) ∧ (t.reg 15).toNat = f ∧ OnlyRegs [x, 15] s t := by
  refine ⟨s.setResultAndFlag x result flag, hexec, fun hx => ?_, ?_, s.onlyRegs_setResultAndFlag x result flag⟩
  · rw [State.reg_setResultAndFlag_result hx, hresult]
  · rw [State.reg_setResultAndFlag_flag, hflag]

/-! ### The obligations -/

/-- Settles O40: the one register write is of NN itself. -/
theorem ldImmLoadsTheByte : Obligations.LdImmLoadsTheByte := by
  intro x nn s
  have hencode : encode (.ldImm x nn) = 0x6#4 ++ regBits x ++ nn := rfl
  exact ⟨hencode, loads_of_exec_eq_setReg (exec_ldImm x nn s)⟩

/-- Settles O42: the one register write is of the old VY. -/
theorem ldRegCopies : Obligations.LdRegCopies := by
  intro x y s
  have hencode : encode (.ldReg x y) = 0x8#4 ++ regBits x ++ regBits y ++ 0x0#4 := rfl
  exact ⟨hencode, loads_of_exec_eq_setReg (exec_ldReg x y s)⟩

/-- Settles O44: result and carry are both numbers of the old operands, and the carry is written last. -/
theorem addRegAddsAndSetsCarry : Obligations.AddRegAddsAndSetsCarry := by
  intro x y s
  have hencode : encode (.addReg x y) = 0x8#4 ++ regBits x ++ regBits y ++ 0x4#4 := rfl
  exact ⟨hencode, computes_of_exec_eq_setResultAndFlag (exec_addReg x y s) (BitVec.toNat_add _ _) (carryFlag_toNat _ _)⟩

/-- Settles O45: the difference and the not-borrow of VX minus VY, both of the old operands. -/
theorem subRegSubtractsAndSetsNotBorrow : Obligations.SubRegSubtractsAndSetsNotBorrow := by
  intro x y s
  have hencode : encode (.subReg x y) = 0x8#4 ++ regBits x ++ regBits y ++ 0x5#4 := rfl
  exact ⟨hencode, computes_of_exec_eq_setResultAndFlag (exec_subReg x y s) (byte_sub_toNat _ _) (notBorrowFlag_toNat _ _)⟩

/-- Settles O46: the same two facts as for `SUB`, with the operands the other way round. -/
theorem subnRegSubtractsTheOtherWay : Obligations.SubnRegSubtractsTheOtherWay := by
  intro x y s
  have hencode : encode (.subnReg x y) = 0x8#4 ++ regBits x ++ regBits y ++ 0x7#4 := rfl
  exact ⟨hencode, computes_of_exec_eq_setResultAndFlag (exec_subnReg x y s) (byte_sub_toNat _ _) (notBorrowFlag_toNat _ _)⟩

end Sys2Proof.Machine
end

