-- ==== Sys2Proof/Proofs/IndexMemory.lean ====
section
/-!
PROOFS. The load of the index register (spec/44_index_memory.md R130). It answers the state with one write of `I`, so its frame is
that of the write, and what is left is the number written.
-/

namespace Sys2Proof.Machine

theorem exec_ldIndex (nnn : Addr12) (s : State) : exec (.ldIndex nnn) s = .next (s.setIndex (addrOf nnn)) := rfl

/-- Settles O49: the value written is NNN zero-extended, the same number for every NNN. -/
theorem ldIndexLoadsTheAddress : Obligations.LdIndexLoadsTheAddress := by
  intro nnn s
  have hencode : encode (.ldIndex nnn) = 0xA#4 ++ nnn := rfl
  have hindex : (s.setIndex (addrOf nnn)).index.toNat = nnn.toNat := by rw [State.setIndex_index, addrOf_toNat]
  exact ⟨hencode, s.setIndex (addrOf nnn), exec_ldIndex nnn s, hindex, s.onlyIndex_setIndex (addrOf nnn)⟩

end Sys2Proof.Machine
end

