-- ==== Sys2Proof/Proofs/TimersKeypad.lean ====
section
/-!
PROOFS. The timer loads and the wait for a key (spec/46_timers_keypad.md R150 to R153). Each answers the state with one write, of
a register, a timer or `pc`, so its frame is that of the write; what the wait answers is decided by the scan for the least key down.
-/

namespace Sys2Proof.Machine

/-! ### What each instruction answers -/

theorem exec_ldVxDt (x : Reg) (s : State) : exec (.ldVxDt x) s = .next (s.setReg x s.dt) := rfl

theorem exec_ldDtVx (x : Reg) (s : State) : exec (.ldDtVx x) s = .next (s.setDt (s.reg x)) := rfl

theorem exec_ldStVx (x : Reg) (s : State) : exec (.ldStVx x) s = .next (s.setSt (s.reg x)) := rfl

theorem exec_ldVxKey (x : Reg) (s : State) : exec (.ldVxKey x) s = execLdVxKey x s := rfl

theorem exec_ldVxKey_of_some {s : State} {k : Key} (x : Reg) (hscan : s.lowestKeyDown = some k) :
    exec (.ldVxKey x) s = .next (s.setReg x (BitVec.ofNat 8 k.val)) := by
  rw [exec_ldVxKey, execLdVxKey, hscan]

theorem exec_ldVxKey_of_none {s : State} (x : Reg) (hscan : s.lowestKeyDown = none) :
    exec (.ldVxKey x) s = .next (s.setPc (s.pc - 2#16)) := by
  rw [exec_ldVxKey, execLdVxKey, hscan]

/-! ### The tone and the key's number -/

/-- The tone is on exactly while `ST` is not 0 (R184). -/
theorem State.toneOn_iff (s : State) : s.toneOn = true ↔ s.st.toNat ≠ 0 := by
  rw [State.toneOn, bne_iff_ne, ne_eq, BitVec.toNat_eq, BitVec.toNat_ofNat, Nat.zero_mod]

/-- A key's number fits in a byte. -/
theorem keyByte_toNat (k : Key) : (BitVec.ofNat 8 k.val).toNat = k.val := by
  rw [BitVec.toNat_ofNat, Nat.mod_eq_of_lt (by omega)]

/-! ### The obligations -/

/-- Settles O57: the one register write is of `DT`, which a register write leaves alone. -/
theorem ldVxDtReadsTheDelayTimer : Obligations.LdVxDtReadsTheDelayTimer := by
  intro x s
  have hencode : encode (.ldVxDt x) = 0xF#4 ++ regBits x ++ 0x07#8 := rfl
  exact ⟨hencode, s.setReg x s.dt, exec_ldVxDt x s, s.reg_setReg_self x s.dt, s.setReg_dt x s.dt,
    s.onlyRegs_setReg x s.dt⟩

/-- Settles O58: each load is one write of its own timer, and the tone reads the `ST` just written. -/
theorem timerLoads : Obligations.TimerLoads := by
  intro x s
  have hencodeDt : encode (.ldDtVx x) = 0xF#4 ++ regBits x ++ 0x15#8 := rfl
  have hencodeSt : encode (.ldStVx x) = 0xF#4 ++ regBits x ++ 0x18#8 := rfl
  have htone : (s.setSt (s.reg x)).toneOn = true ↔ (s.reg x).toNat ≠ 0 := (s.setSt (s.reg x)).toneOn_iff
  refine ⟨hencodeDt, hencodeSt, ?delay, ?sound⟩
  case delay => exact ⟨s.setDt (s.reg x), exec_ldDtVx x s, rfl, fun _ _ => rfl, fun _ => rfl, rfl⟩
  case sound => exact ⟨s.setSt (s.reg x), exec_ldStVx x s, rfl, htone, fun _ _ => rfl, fun _ => rfl, rfl⟩

/-- Settles O59: the scan finds the least key down, so it is that key's number that is written; a scan that finds none moves `pc`
alone. -/
theorem ldVxKeyTakesTheLeastKey : Obligations.LdVxKeyTakesTheLeastKey := by
  intro x s
  have hencode : encode (.ldVxKey x) = 0xF#4 ++ regBits x ++ 0x0A#8 := rfl
  refine ⟨hencode, fun k hdown hleast => ?pressed, fun hup => ?waiting⟩
  case pressed =>
    have hscan : s.lowestKeyDown = some k := (s.lowestKeyDown_eq_some k).mpr ⟨hdown, hleast⟩
    have hreg : ((s.setReg x (BitVec.ofNat 8 k.val)).reg x).toNat = k.val := by
      rw [State.reg_setReg_self, keyByte_toNat]
    exact ⟨_, exec_ldVxKey_of_some x hscan, hreg, s.onlyRegs_setReg x _⟩
  case waiting =>
    have hscan : s.lowestKeyDown = none := s.lowestKeyDown_eq_none.mpr hup
    exact ⟨_, exec_ldVxKey_of_none x hscan, s.setPc_pc _, s.onlyPc_setPc _⟩

end Sys2Proof.Machine
end

