-- ==== Sys2Proof/Proofs/Exceptions.lean ====
section
/-!
PROOFS. Three events of the host (spec/60_exceptions.md R181 to R183). A step whose next event is known is that event's effect on
the state without it, so what each event leaves unchanged is read off its effect. What no instruction does, to write a key flag
or to read `dirty`, goes by the shared operations: the handlers built from plain writes agree by computation, and the others by
the law of the skip, of the key skip, of the bytes stored, of the registers loaded or of the range check.
-/

namespace Sys2Proof.Machine

/-- A step delivers the event that comes next to the state without it (R180). -/
theorem step_of_nextEvent {s : State} {e : HostEvent} (hevent : s.nextEvent = e) : step s = deliver e s.popEvent := by
  rw [step, hevent]

/-! ### No instruction writes a key flag -/

theorem State.checkedAccess_key {s e : State} (len : Nat) (heffect : e.key = s.key) :
    (s.checkedAccess len e).key = s.key := by
  obtain hok | hfault := s.checkedAccess_cases len e
  · rw [hok, heffect]
  · rw [hfault]
    rfl

theorem State.writeBytes_key (a : Nat) (bs : List Byte) (s : State) : (State.writeBytes a bs s).key = s.key := by
  rw [State.writeBytes_eq]

theorem State.loadRegList_key (rs : List Reg) (s : State) : (State.loadRegList rs s).key = s.key := by
  rw [State.loadRegList_eq]

theorem skipOnKey_key (wantDown : Bool) (x : Reg) (s : State) : (skipOnKey wantDown x s).key = s.key := by
  unfold skipOnKey
  split <;> exact State.skipIf_key _ _

/-- Every instruction answers a next state with the key flags of the state it found. -/
theorem exec_keeps_key (i : Instr) (s : State) : ∃ t, exec i s = .next t ∧ t.key = s.key := by
  cases i with
  | ret =>
    by_cases hempty : s.sp.val = 0
    · exact ⟨_, dif_pos hempty, rfl⟩
    · exact ⟨_, dif_neg hempty, rfl⟩
  | call nnn =>
    by_cases hroom : s.sp.val < 16
    · exact ⟨_, dif_pos hroom, rfl⟩
    · exact ⟨_, dif_neg hroom, rfl⟩
  | ldFont x =>
    by_cases hdigit : (s.reg x).toNat ≤ 15
    · exact ⟨_, if_pos hdigit, rfl⟩
    · exact ⟨_, if_neg hdigit, rfl⟩
  | ldVxKey x =>
    cases hscan : s.lowestKeyDown with
    | none => exact ⟨_, exec_ldVxKey_of_none x hscan, rfl⟩
    | some k => exact ⟨_, exec_ldVxKey_of_some x hscan, rfl⟩
  | seImm | sneImm | seReg | sneReg => exact ⟨_, rfl, State.skipIf_key _ _⟩
  | skp | sknp => exact ⟨_, rfl, skipOnKey_key _ _ _⟩
  | drw => exact ⟨_, rfl, State.checkedAccess_key _ rfl⟩
  | ldBcd | storeRegs => exact ⟨_, rfl, State.checkedAccess_key _ (State.writeBytes_key _ _ _)⟩
  | loadRegs => exact ⟨_, rfl, State.checkedAccess_key _ (State.loadRegList_key _ _)⟩
  | cls | jp | ldImm | addImm | ldReg | orReg | andReg | xorReg | addReg | subReg | shr | subnReg | shl | ldIndex | jpV0
  | rnd | ldVxDt | ldDtVx | ldStVx | addIndex => exact ⟨_, rfl, rfl⟩

theorem exec_next_keyDown {i : Instr} {s t : State} (hexec : exec i s = .next t) (k : Key) : t.keyDown k = s.keyDown k := by
  obtain ⟨u, hu, hkey⟩ := exec_keeps_key i s
  obtain rfl : u = t := Host.Outcome.next.inj (hu.symm.trans hexec)
  rw [State.keyDown, hkey, State.keyDown]

/-! ### No instruction reads `dirty` -/

/-- The machine with another value of `dirty`, and everything else as it is. -/
def State.withDirty (b : Bool) (s : State) : State := { s with dirty := b }

theorem State.skipIf_withDirty (b c : Bool) (s : State) : (s.withDirty b).skipIf c = (s.skipIf c).withDirty b := by
  cases c <;> rfl

theorem State.writeBytes_withDirty (b : Bool) (a : Nat) (bs : List Byte) (s : State) :
    State.writeBytes a bs (s.withDirty b) = (State.writeBytes a bs s).withDirty b := by
  induction bs generalizing a s with
  | nil => rfl
  | cons c bs ih => exact ih (a + 1) (s.writeByte a c)

theorem State.loadRegList_withDirty (b : Bool) (rs : List Reg) (s : State) :
    State.loadRegList rs (s.withDirty b) = (State.loadRegList rs s).withDirty b := by
  induction rs generalizing s with
  | nil => rfl
  | cons r rs ih => exact ih (s.setReg r (s.byteAt (s.effAddr r.val)))

theorem skipOnKey_withDirty (b wantDown : Bool) (x : Reg) (s : State) :
    skipOnKey wantDown x (s.withDirty b) = (skipOnKey wantDown x s).withDirty b := by
  have hreg : (s.withDirty b).reg x = s.reg x := rfl
  unfold skipOnKey
  rw [hreg]
  cases keyOf (s.reg x) with
  | none => exact State.skipIf_withDirty b _ s.drawn
  | some k => exact State.skipIf_withDirty b _ s

/-- The range check does not read `dirty`: when the effects differ at most in `dirty`, so do the outcomes. -/
theorem State.checkedAccess_withDirty {s e : State} (b d : Bool) (len : Nat) :
    ∃ d', (s.withDirty b).checkedAccess len (e.withDirty d) = (s.checkedAccess len e).withDirty d' := by
  by_cases hrange : len = 0 ∨ s.index.toNat + len - 1 ≤ 0xFFF
  · refine ⟨d, ?_⟩
    rw [State.checkedAccess_of_ok (s := s.withDirty b) _ hrange, State.checkedAccess_of_ok _ hrange]
  · refine ⟨b, ?_⟩
    rw [State.checkedAccess_of_not_ok (s := s.withDirty b) _ hrange, State.checkedAccess_of_not_ok _ hrange]
    rfl

/-- An instruction that is one checked access answers the same up to `dirty` when its effect is the same up to `dirty`. -/
theorem exec_withDirty_of_checkedAccess {i : Instr} {s e e' : State} {b d : Bool} {len : Nat}
    (hexec : exec i s = .next (s.checkedAccess len e))
    (hexec' : exec i (s.withDirty b) = .next ((s.withDirty b).checkedAccess len e')) (heffect : e' = e.withDirty d) :
    ∃ t d', exec i s = .next t ∧ exec i (s.withDirty b) = .next (t.withDirty d') := by
  obtain ⟨d', hd'⟩ := State.checkedAccess_withDirty (s := s) (e := e) b d len
  exact ⟨_, d', hexec, by rw [hexec', heffect, hd']⟩

/-- Run with another value of `dirty`, every instruction answers the same state up to `dirty` (R182). -/
theorem exec_withDirty (i : Instr) (s : State) (b : Bool) :
    ∃ t d, exec i s = .next t ∧ exec i (s.withDirty b) = .next (t.withDirty d) := by
  cases i with
  | cls => exact ⟨_, true, rfl, rfl⟩
  | ret =>
    by_cases hempty : s.sp.val = 0
    · exact ⟨_, b, dif_pos hempty, dif_pos hempty⟩
    · exact ⟨_, b, dif_neg hempty, dif_neg hempty⟩
  | call nnn =>
    by_cases hroom : s.sp.val < 16
    · exact ⟨_, b, dif_pos hroom, dif_pos hroom⟩
    · exact ⟨_, b, dif_neg hroom, dif_neg hroom⟩
  | ldFont x =>
    by_cases hdigit : (s.reg x).toNat ≤ 15
    · exact ⟨_, b, if_pos hdigit, if_pos hdigit⟩
    · exact ⟨_, b, if_neg hdigit, if_neg hdigit⟩
  | ldVxKey x =>
    cases hscan : s.lowestKeyDown with
    | none => exact ⟨_, b, exec_ldVxKey_of_none x hscan, exec_ldVxKey_of_none (s := s.withDirty b) x hscan⟩
    | some k => exact ⟨_, b, exec_ldVxKey_of_some x hscan, exec_ldVxKey_of_some (s := s.withDirty b) x hscan⟩
  | seImm | sneImm | seReg | sneReg => exact ⟨_, b, rfl, congrArg _ (State.skipIf_withDirty b _ s)⟩
  | skp | sknp => exact ⟨_, b, rfl, congrArg _ (skipOnKey_withDirty b _ _ s)⟩
  | drw x y n =>
    have hcanvas : (s.withDirty b).putCanvas (s.drawSprite x y n) =
        (s.putCanvas (s.drawSprite x y n)).withDirty (b || (s.drawSprite x y n).changed) := rfl
    exact exec_withDirty_of_checkedAccess rfl rfl hcanvas
  | ldBcd | storeRegs => exact exec_withDirty_of_checkedAccess rfl rfl (State.writeBytes_withDirty b _ _ s)
  | loadRegs => exact exec_withDirty_of_checkedAccess rfl rfl (State.loadRegList_withDirty b _ s)
  | jp | ldImm | addImm | ldReg | orReg | andReg | xorReg | addReg | subReg | shr | subnReg | shl | ldIndex | jpV0
  | rnd | ldVxDt | ldDtVx | ldStVx | addIndex => exact ⟨_, b, rfl, rfl⟩

/-! ### What the events write -/

theorem State.keyDown_afterKeySet (k j : Key) (down : Bool) (s : State) :
    (s.afterKeySet k down).keyDown j = if j = k then down else s.keyDown j := by
  simp [State.keyDown, State.afterKeySet, Vector.getElem_set, Fin.ext_iff, eq_comm]

theorem State.afterLoad_of_fits {bytes : List Byte} (s : State) (hfits : bytes.length ≤ 3584) :
    s.afterLoad (some bytes) = { State.writeBytes 0x200 bytes s with out := .load .ok } :=
  if_pos hfits

theorem State.afterLoad_of_too_long {bytes : List Byte} (s : State) (hlong : 3584 < bytes.length) :
    s.afterLoad (some bytes) = { s with out := .load .sizeExceeded } :=
  if_neg (Nat.not_le_of_lt hlong)

/-- A LoadImage event is admitted while the machine is booting (R195). -/
theorem step_of_loadImage {s : State} {source : Option (List Byte)} (hbooting : s.booting = true)
    (hevent : s.nextEvent = .loadImage source) : step s = .next (s.popEvent.afterLoad source) := by
  rw [step_of_nextEvent hevent]
  exact if_pos hbooting

/-- Bytes written at consecutive addresses within memory are found there. -/
theorem State.memoryShows_writeBytes (a : Nat) (bs : List Byte) (s : State) (hroom : a + bs.length ≤ 4096) :
    MemoryShows (State.writeBytes a bs s) a bs := by
  intro j hj
  have hinside : a ≤ a + j ∧ a + j - a < bs.length := by omega
  rw [State.byteAt_writeBytes bs a (a + j) s hroom, dif_pos hinside]
  simp only [Nat.add_sub_cancel_left]

/-! ### The obligations -/

/-- Settles O19: the event writes `dirty` and its silent output alone, and each instruction's two runs answer states that agree
up to `dirty`. -/
theorem presentationTimingIsUnobservable : Obligations.PresentationTimingIsUnobservable := by
  refine ⟨fun s hevent => ?event, fun i s t b hexec => ?instruction⟩
  case event => exact ⟨s.popEvent.afterDirtyClear, step_of_nextEvent hevent, fun _ _ => rfl, fun _ => rfl, rfl⟩
  case instruction =>
    obtain ⟨u, d, hu, hrun⟩ := exec_withDirty i s b
    obtain rfl : u = t := Host.Outcome.next.inj (hu.symm.trans hexec)
    exact ⟨u.withDirty d, hrun, rfl⟩

/-- Settles O24: 3584 bytes from 0x200 on end with the last byte of memory, so an image that fits is stored whole; the other two
answers write the result alone. -/
theorem loadImageCopiesTheImage : Obligations.LoadImageCopiesTheImage := by
  intro s hbooting
  refine ⟨fun bytes hevent hfits => ?fits, fun bytes hevent hlong => ?tooLong, fun hevent => ?unreadable⟩
  case fits =>
    have hroom : 0x200 + bytes.length ≤ 4096 := by omega
    obtain ⟨hregs, houtside, hrest⟩ := s.popEvent.onlyBytes_writeBytes 0x200 bytes hroom
    refine ⟨{ State.writeBytes 0x200 bytes s.popEvent with out := .load .ok }, ?_,
      s.popEvent.memoryShows_writeBytes 0x200 bytes hroom, houtside, hregs, ?_⟩
    · rw [step_of_loadImage hbooting hevent, State.afterLoad_of_fits _ hfits]
    · rw [hrest]
      rfl
  case tooLong =>
    refine ⟨{ s.popEvent with out := .load .sizeExceeded }, ?_, fun _ => rfl, rfl⟩
    rw [step_of_loadImage hbooting hevent, State.afterLoad_of_too_long _ hlong]
  case unreadable =>
    exact ⟨{ s.popEvent with out := .load .readFailure }, step_of_loadImage hbooting hevent, fun _ => rfl, rfl⟩

/-- Settles O22: the event writes one entry of the key flags, and every instruction keeps them all. -/
theorem keySetSetsOneFlag : Obligations.KeySetSetsOneFlag := by
  refine ⟨fun s k down hevent => ?event, fun i s t hexec k => exec_next_keyDown hexec k⟩
  case event =>
    refine ⟨s.popEvent.afterKeySet k down, step_of_nextEvent hevent, ?_, fun j hj => ?_, fun _ _ => rfl, fun _ => rfl, rfl⟩
    · rw [State.keyDown_afterKeySet, if_pos rfl]
    · rw [State.keyDown_afterKeySet, if_neg hj]
      rfl

end Sys2Proof.Machine
end

