-- ==== Sys2Proof/Proofs/Other.lean ====
section
/-!
PROOFS. The decoder as a whole, the events of the host, the instructions the earlier parts leave, what every instruction keeps, and
the two invariants of every step. The first part says once what the dispatch of a word can do, the later part "what an instruction
can do" says once what a handler can do, and the statements over all words and all instructions are read off these two.
-/

/-! ## The decoder

The primary dispatch of a word once for all: four selectors hand the word to a secondary table, every other selector decodes it at
once to the instruction the word encodes. -/

namespace Sys2Proof.Laws

/-! ### Decoding a word put together from its fields -/

theorem decode_of_fieldP_8 {w : Word} (hp : fieldP w = 0x8#4) : decode w = decode8 w := by
  rw [decode, hp]
  rfl

theorem decode_of_fieldP_E {w : Word} (hp : fieldP w = 0xE#4) : decode w = decodeE w := by
  rw [decode, hp]
  rfl

theorem decode_of_fieldP_F {w : Word} (hp : fieldP w = 0xF#4) : decode w = decodeF w := by
  rw [decode, hp]
  rfl

theorem decode8_xyn (r q n : Nibble) : decode (0x8#4 ++ r ++ q ++ n : Word) = decode8 (0x8#4 ++ r ++ q ++ n : Word) :=
  decode_of_fieldP_8 (fieldP_xyn _ _ _ _)

theorem decodeE_xnn (r : Nibble) (b : Byte) : decode (0xE#4 ++ r ++ b : Word) = decodeE (0xE#4 ++ r ++ b : Word) :=
  decode_of_fieldP_E (fieldP_xnn _ _ _)

theorem decodeF_xnn (r : Nibble) (b : Byte) : decode (0xF#4 ++ r ++ b : Word) = decodeF (0xF#4 ++ r ++ b : Word) :=
  decode_of_fieldP_F (fieldP_xnn _ _ _)

/-- Settles O3: by the format of the instruction's word, whose fields are the operands it was put together from. -/
theorem decodeUndoesEncode : Obligations.DecodeUndoesEncode := by
  intro i
  cases i with
  | cls | ret => rfl
  | jp | call | ldIndex | jpV0 => simp only [encode, decode, fieldP_nnn, fieldNNN_nnn]
  | seImm | sneImm | ldImm | addImm | rnd => simp only [encode, decode, fieldP_xnn, fieldX_xnn, fieldNN_xnn]
  | seReg | sneReg | drw => simp only [encode, decode, fieldP_xyn, fieldX_xyn, fieldY_xyn, fieldN_xyn]
  | ldReg | orReg | andReg | xorReg | addReg | subReg | subnReg =>
    simp only [encode, decode8_xyn, decode8, fieldN_xyn, fieldX_xyn, fieldY_xyn]
  | shr | shl => simp only [encode, decode8_xyn, decode8, fieldN_xyn, fieldX_xyn, fieldYBits_xyn]
  | skp | sknp => simp only [encode, decodeE_xnn, decodeE, fieldNN_xnn, fieldX_xnn]
  | ldVxDt | ldVxKey | ldDtVx | ldStVx | addIndex | ldFont | ldBcd | storeRegs | loadRegs =>
    simp only [encode, decodeF_xnn, decodeF, fieldNN_xnn, fieldX_xnn]

/-- Settles O1: fourteen closed words, read by the decoder itself. -/
theorem specWordsDecodeAsListed : Obligations.SpecWordsDecodeAsListed := by
  unfold Obligations.SpecWordsDecodeAsListed
  decide

/-- Settles O7: the four words are the encodings of the four instructions, and no handler takes the ignored nibble. -/
theorem ignoredFieldsChangeNothing : Obligations.IgnoredFieldsChangeNothing := by
  intro x y n s
  exact ⟨decodeUndoesEncode (.seReg x y n), decodeUndoesEncode (.sneReg x y n), decodeUndoesEncode (.shr x n),
    decodeUndoesEncode (.shl x n), rfl, rfl, rfl, rfl⟩

/-! ### The primary dispatch -/

/-- The primary selectors that hand the word to a secondary table (R66 to R69). -/
def secondarySelectors : List Nibble := [0x0#4, 0x8#4, 0xE#4, 0xF#4]

/-- The bits a format reads are all the bits of the word. -/
theorem word_eq_nnn {w : Word} {p : Nibble} (hp : fieldP w = p) : p ++ fieldNNN w = w := by
  rw [← hp, word_nnn]

theorem word_eq_xnn {w : Word} {p : Nibble} {b : Byte} (hp : fieldP w = p) (hb : fieldNN w = b) :
    p ++ regBits (fieldX w) ++ b = w := by
  rw [← hp, ← hb, word_xnn]

theorem word_eq_xyn {w : Word} {p n : Nibble} (hp : fieldP w = p) (hn : fieldN w = n) :
    p ++ regBits (fieldX w) ++ fieldYBits w ++ n = w := by
  rw [← hp, ← hn, word_xyn]

/-- What the primary dispatch does with a word (R65): a secondary table decides, or the word is the encoding of the instruction
it decodes to. -/
inductive Dispatch (w : Word) : Prop
  | table0 (hp : fieldP w = 0x0#4) (hdecode : decode w = decode0 w)
  | table8 (hp : fieldP w = 0x8#4) (hdecode : decode w = decode8 w)
  | tableE (hp : fieldP w = 0xE#4) (hdecode : decode w = decodeE w)
  | tableF (hp : fieldP w = 0xF#4) (hdecode : decode w = decodeF w)
  | direct (i : Instr) (hp : fieldP w ∉ secondarySelectors) (hdecode : decode w = .ok i) (hencode : encode i = w)

theorem Dispatch.of_selector {w : Word} {p : Nibble} {i : Instr} (hp : fieldP w = p) (hdirect : p ∉ secondarySelectors)
    (hdecode : decode w = .ok i) (hencode : encode i = w) : Dispatch w :=
  .direct i (hp ▸ hdirect) hdecode hencode

theorem dispatch (w : Word) : Dispatch w := by
  -- the dispatch is unfolded on one side only, so that each case keeps `decode w` on the other
  have hdecode : decode w = decode w := rfl
  conv at hdecode => rhs; unfold decode
  split at hdecode
  next hp => exact .table0 hp hdecode
  next hp => exact .of_selector hp (by decide) hdecode (word_eq_nnn hp)
  next hp => exact .of_selector hp (by decide) hdecode (word_eq_nnn hp)
  next hp => exact .of_selector hp (by decide) hdecode (word_eq_xnn hp rfl)
  next hp => exact .of_selector hp (by decide) hdecode (word_eq_xnn hp rfl)
  next hp => exact .of_selector hp (by decide) hdecode (word_eq_xyn hp rfl)
  next hp => exact .of_selector hp (by decide) hdecode (word_eq_xnn hp rfl)
  next hp => exact .of_selector hp (by decide) hdecode (word_eq_xnn hp rfl)
  next hp => exact .table8 hp hdecode
  next hp => exact .of_selector hp (by decide) hdecode (word_eq_xyn hp rfl)
  next hp => exact .of_selector hp (by decide) hdecode (word_eq_nnn hp)
  next hp => exact .of_selector hp (by decide) hdecode (word_eq_nnn hp)
  next hp => exact .of_selector hp (by decide) hdecode (word_eq_xnn hp rfl)
  next hp => exact .of_selector hp (by decide) hdecode (word_eq_xyn hp rfl)
  next hp => exact .tableE hp hdecode
  next =>
    have hp : fieldP w = 0xF#4 := by
      simp only [imp_false] at *
      bv_omega
    exact .tableF hp hdecode

/-! ### Encoding what a word decodes to -/

theorem encode_of_decode0 {w : Word} {i : Instr} (h : decode0 w = .ok i) : encode i = w := by
  unfold decode0 at h
  split at h
  next hw => cases h; exact hw.symm
  next =>
    split at h
    next hw => cases h; exact hw.symm
    next => cases h

/-- In each secondary table the case that was taken fixes the selector's bits, and the other fields are operands. -/
theorem encode_of_decode8 {w : Word} {i : Instr} (hp : fieldP w = 0x8#4) (h : decode8 w = .ok i) : encode i = w := by
  unfold decode8 at h
  split at h <;> cases h <;> exact word_eq_xyn hp ‹_›

theorem encode_of_decodeE {w : Word} {i : Instr} (hp : fieldP w = 0xE#4) (h : decodeE w = .ok i) : encode i = w := by
  unfold decodeE at h
  split at h <;> cases h <;> exact word_eq_xnn hp ‹_›

theorem encode_of_decodeF {w : Word} {i : Instr} (hp : fieldP w = 0xF#4) (h : decodeF w = .ok i) : encode i = w := by
  unfold decodeF at h
  split at h <;> cases h <;> exact word_eq_xnn hp ‹_›

/-- Settles O4: each secondary table keeps every bit of the word, and so does the primary dispatch where it decodes at once. -/
theorem encodeUndoesDecode : Obligations.EncodeUndoesDecode := by
  intro w i hword
  cases dispatch w with
  | table0 _ hdecode => exact encode_of_decode0 (hdecode ▸ hword)
  | table8 hp hdecode => exact encode_of_decode8 hp (hdecode ▸ hword)
  | tableE hp hdecode => exact encode_of_decodeE hp (hdecode ▸ hword)
  | tableF hp hdecode => exact encode_of_decodeF hp (hdecode ▸ hword)
  | direct j _ hdecode hencode =>
    obtain rfl : j = i := Except.ok.inj (hdecode.symm.trans hword)
    exact hencode

/-! ### The undecodable words -/

theorem decode0_error_iff (w : Word) : (∃ e, decode0 w = .error e) ↔ w ≠ 0x00E0#16 ∧ w ≠ 0x00EE#16 := by
  unfold decode0
  split
  next hw => simp [hw]
  next hw0 =>
    split
    next hw => simp [hw]
    next hw1 => simp [hw0, hw1]

theorem decode8_error_iff (w : Word) :
    (∃ e, decode8 w = .error e) ↔ fieldN w ∉ [0x0#4, 0x1#4, 0x2#4, 0x3#4, 0x4#4, 0x5#4, 0x6#4, 0x7#4, 0xE#4] := by
  unfold decode8
  split <;> simp_all

theorem decodeE_error_iff (w : Word) : (∃ e, decodeE w = .error e) ↔ fieldNN w ∉ [0x9E#8, 0xA1#8] := by
  unfold decodeE
  split <;> simp_all

theorem decodeF_error_iff (w : Word) :
    (∃ e, decodeF w = .error e) ↔
      fieldNN w ∉ [0x07#8, 0x0A#8, 0x15#8, 0x18#8, 0x1E#8, 0x29#8, 0x33#8, 0x55#8, 0x65#8] := by
  unfold decodeF
  split <;> simp_all

/-- The primary selector as the number of the word's top four bits. -/
theorem primary_toNat {w : Word} {p : Nibble} (hp : fieldP w = p) : w.toNat / 0x1000 = p.toNat := by
  rw [← hp, fieldP_toNat]

/-- Bits are one of a list exactly when their number is one of the list's numbers. -/
theorem toNat_mem_map_toNat {n : Nat} (b : BitVec n) (l : List (BitVec n)) : b.toNat ∈ l.map BitVec.toNat ↔ b ∈ l :=
  List.mem_map_of_injective BitVec.toNat_injective

theorem decode0_error_iff_toNat (w : Word) : (∃ e, decode0 w = .error e) ↔ w.toNat ≠ 0x00E0 ∧ w.toNat ≠ 0x00EE := by
  rw [decode0_error_iff, ne_eq, ne_eq, BitVec.toNat_eq, BitVec.toNat_eq]
  rfl

theorem decode8_error_iff_toNat (w : Word) :
    (∃ e, decode8 w = .error e) ↔ w.toNat % 16 ∈ [0x8, 0x9, 0xA, 0xB, 0xC, 0xD, 0xF] := by
  rw [decode8_error_iff, ← toNat_mem_map_toNat, fieldN_toNat]
  have hnibble : w.toNat % 16 < 16 := Nat.mod_lt _ (by decide)
  simp
  omega

theorem decodeE_error_iff_toNat (w : Word) : (∃ e, decodeE w = .error e) ↔ w.toNat % 256 ∉ [0x9E, 0xA1] := by
  rw [decodeE_error_iff, ← toNat_mem_map_toNat, fieldNN_toNat]
  rfl

theorem decodeF_error_iff_toNat (w : Word) :
    (∃ e, decodeF w = .error e) ↔
      w.toNat % 256 ∉ [0x07, 0x0A, 0x15, 0x18, 0x1E, 0x29, 0x33, 0x55, 0x65] := by
  rw [decodeF_error_iff, ← toNat_mem_map_toNat, fieldNN_toNat]
  rfl

/-- Settles O6: the top four bits say which of the four families the word can be in, and its secondary table decides the rest. -/
theorem undecodableWordsAreTheFourFamilies : Obligations.UndecodableWordsAreTheFourFamilies := by
  intro w
  cases dispatch w with
  | table0 hp hdecode =>
    have hnum : w.toNat / 0x1000 = 0x0 := primary_toNat hp
    have hlow : w.toNat < 0x1000 := by omega
    simp only [hdecode, decode0_error_iff_toNat, hlow, hnum]
    simp
  | table8 hp hdecode =>
    have hnum : w.toNat / 0x1000 = 0x8 := primary_toNat hp
    have hhigh : ¬ w.toNat < 0x1000 := by omega
    simp only [hdecode, decode8_error_iff_toNat, hhigh, hnum]
    simp
  | tableE hp hdecode =>
    have hnum : w.toNat / 0x1000 = 0xE := primary_toNat hp
    have hhigh : ¬ w.toNat < 0x1000 := by omega
    simp only [hdecode, decodeE_error_iff_toNat, hhigh, hnum]
    simp
  | tableF hp hdecode =>
    have hnum : w.toNat / 0x1000 = 0xF := primary_toNat hp
    have hhigh : ¬ w.toNat < 0x1000 := by omega
    simp only [hdecode, decodeF_error_iff_toNat, hhigh, hnum]
    simp
  | direct i hp hdecode _ =>
    have hnum : w.toNat / 0x1000 ∉ [0x0, 0x8, 0xE, 0xF] := by
      rw [← fieldP_toNat]
      exact fun h => hp ((toNat_mem_map_toNat _ secondarySelectors).mp h)
    simp only [List.mem_cons, List.not_mem_nil, or_false, not_or] at hnum
    have hhigh : ¬ w.toNat < 0x1000 := by omega
    simp [hdecode, hnum, hhigh]

/-! ### The opcode list -/

/-- Under a row's mask the word's bits are the row's pattern, and so are the bits of each selector field. -/
theorem extract_of_selects {r : OpcodeRow} {w : Word} (h : r.selects w = true) (lo n : Nat) :
    w.extractLsb' lo n &&& r.mask.extractLsb' lo n = r.pattern.extractLsb' lo n := by
  rw [← BitVec.extractLsb'_and, beq_iff_eq.mp h]

/-- A word that a row selects bears the row's bits in every field that lies wholly under the row's mask. -/
theorem extract_eq_of_selects {r : OpcodeRow} {w : Word} (h : r.selects w = true) {lo n : Nat}
    (hmask : r.mask.extractLsb' lo n = BitVec.allOnes n) : w.extractLsb' lo n = r.pattern.extractLsb' lo n := by
  rw [← extract_of_selects h, hmask, BitVec.and_allOnes]

/-- Two rows that agree wherever both masks look are one row, so a word selects at most one. -/
theorem opcodeTable_rows_disjoint :
    ∀ r ∈ opcodeTable, ∀ q ∈ opcodeTable, r.pattern &&& q.mask = q.pattern &&& r.mask → r = q := by
  decide

theorem eq_of_selects {r q : OpcodeRow} {w : Word} (hr : r ∈ opcodeTable) (hq : q ∈ opcodeTable)
    (hrw : r.selects w = true) (hqw : q.selects w = true) : r = q := by
  apply opcodeTable_rows_disjoint r hr q hq
  rw [← beq_iff_eq.mp hrw, ← beq_iff_eq.mp hqw]
  ac_rfl

/-- The row's selector fields lie under its mask and are an entry of the dispatch: a direct selector, or an entry of the secondary
table of its primary selector. -/
def OpcodeRow.Dispatched (r : OpcodeRow) : Prop :=
  fieldP r.mask = BitVec.allOnes 4 ∧
  (fieldP r.pattern = 0x0#4 → r.mask = BitVec.allOnes 16 ∧ (r.pattern = 0x00E0#16 ∨ r.pattern = 0x00EE#16)) ∧
  (fieldP r.pattern = 0x8#4 → fieldN r.mask = BitVec.allOnes 4 ∧
    fieldN r.pattern ∈ [0x0#4, 0x1#4, 0x2#4, 0x3#4, 0x4#4, 0x5#4, 0x6#4, 0x7#4, 0xE#4]) ∧
  (fieldP r.pattern = 0xE#4 → fieldNN r.mask = BitVec.allOnes 8 ∧ fieldNN r.pattern ∈ [0x9E#8, 0xA1#8]) ∧
  (fieldP r.pattern = 0xF#4 → fieldNN r.mask = BitVec.allOnes 8 ∧
    fieldNN r.pattern ∈ [0x07#8, 0x0A#8, 0x15#8, 0x18#8, 0x1E#8, 0x29#8, 0x33#8, 0x55#8, 0x65#8])

theorem opcodeTable_dispatched : ∀ r ∈ opcodeTable, OpcodeRow.Dispatched r := by
  unfold OpcodeRow.Dispatched
  decide

/-- A word that selects a row of the list decodes: it has the row's bits in the fields the dispatch reads. -/
theorem decodes_of_selects {r : OpcodeRow} {w : Word} (hr : r ∈ opcodeTable) (hs : r.selects w = true) :
    ¬ ∃ e, decode w = .error e := by
  obtain ⟨hmask, h0, h8, hE, hF⟩ := opcodeTable_dispatched r hr
  have hprimary : fieldP w = fieldP r.pattern := extract_eq_of_selects hs hmask
  rw [← hprimary] at h0 h8 hE hF
  cases dispatch w with
  | table0 hp hdecode =>
    obtain ⟨hmask, hpattern⟩ := h0 hp
    have hword : w = r.pattern := by rw [← beq_iff_eq.mp hs, hmask, BitVec.and_allOnes]
    rw [hdecode, decode0_error_iff, hword]
    tauto
  | table8 hp hdecode =>
    obtain ⟨hmask, hpattern⟩ := h8 hp
    have hfield : fieldN w = fieldN r.pattern := extract_eq_of_selects hs hmask
    rwa [hdecode, decode8_error_iff, hfield, not_not]
  | tableE hp hdecode =>
    obtain ⟨hmask, hpattern⟩ := hE hp
    have hfield : fieldNN w = fieldNN r.pattern := extract_eq_of_selects hs hmask
    rwa [hdecode, decodeE_error_iff, hfield, not_not]
  | tableF hp hdecode =>
    obtain ⟨hmask, hpattern⟩ := hF hp
    have hfield : fieldNN w = fieldNN r.pattern := extract_eq_of_selects hs hmask
    rwa [hdecode, decodeF_error_iff, hfield, not_not]
  | direct i _ hdecode _ => simp [hdecode]

/-- Every instruction's word selects the row of its mnemonic: the members of the family `Selects` together. -/
theorem Selects.statement (i : Instr) : Selects.Statement i := by
  cases i with
  | cls => exact Selects.cls
  | ret => exact Selects.ret
  | jp nnn => exact Selects.jp nnn
  | call nnn => exact Selects.call nnn
  | seImm x nn => exact Selects.seImm x nn
  | sneImm x nn => exact Selects.sneImm x nn
  | seReg x y n => exact Selects.seReg x y n
  | ldImm x nn => exact Selects.ldImm x nn
  | addImm x nn => exact Selects.addImm x nn
  | ldReg x y => exact Selects.ldReg x y
  | orReg x y => exact Selects.orReg x y
  | andReg x y => exact Selects.andReg x y
  | xorReg x y => exact Selects.xorReg x y
  | addReg x y => exact Selects.addReg x y
  | subReg x y => exact Selects.subReg x y
  | shr x y => exact Selects.shr x y
  | subnReg x y => exact Selects.subnReg x y
  | shl x y => exact Selects.shl x y
  | sneReg x y n => exact Selects.sneReg x y n
  | ldIndex nnn => exact Selects.ldIndex nnn
  | jpV0 nnn => exact Selects.jpV0 nnn
  | rnd x nn => exact Selects.rnd x nn
  | drw x y n => exact Selects.drw x y n
  | skp x => exact Selects.skp x
  | sknp x => exact Selects.sknp x
  | ldVxDt x => exact Selects.ldVxDt x
  | ldVxKey x => exact Selects.ldVxKey x
  | ldDtVx x => exact Selects.ldDtVx x
  | ldStVx x => exact Selects.ldStVx x
  | addIndex x => exact Selects.addIndex x
  | ldFont x => exact Selects.ldFont x
  | ldBcd x => exact Selects.ldBcd x
  | storeRegs x => exact Selects.storeRegs x
  | loadRegs x => exact Selects.loadRegs x

/-- Settles O5: rows never overlap, a decoded word is the encoding of its instruction and so selects that instruction's row, and a
word that selects a row decodes. -/
theorem dispatchAgreesWithOpcodeList : Obligations.DispatchAgreesWithOpcodeList := by
  refine ⟨rfl, fun w r hr q hq hrw hqw => eq_of_selects hr hq hrw hqw, fun w i hword => ?row, fun w e hword r hr => ?none⟩
  case row =>
    obtain rfl : encode i = w := encodeUndoesDecode w i hword
    exact Selects.statement i
  case none =>
    by_contra hs
    exact decodes_of_selects hr (Bool.eq_true_of_not_eq_false hs) ⟨e, hword⟩

end Sys2Proof.Laws

/-! ## The events of the host

A step whose next event is known is that event's effect on the state without it (`step_of_nextEvent`), and a Cycle event is one of
four things: nothing but its report, the fetch fault, a handler, or the report of an undecodable word. -/

namespace Sys2Proof.Machine

/-! ### The Cycle event -/

/-- Settles O8: the fetch leaves the two bytes at `pc` as the word to dispatch, and that word decodes. -/
theorem stepRunsTheDecodedInstruction : Obligations.StepRunsTheDecodedInstruction := by
  intro s i hfetch hword
  rw [step_of_aboutToFetch hfetch]
  exact dispatchWord_of_ok hword

/-- A cycle that cannot fetch halts the machine with the fetch fault (R82). -/
theorem step_of_out_of_range {s : State} (hevent : s.nextEvent = .cycle) (hrunning : s.runState = .running)
    (hpc : 0x0FFE < s.pc.toNat) : step s = .next s.popEvent.beginCycle.raiseFetchRange := by
  rw [step_of_nextEvent hevent, deliver, cycle_of_out_of_range (by simpa using hrunning) (by simpa using hpc)]

/-- A cycle of a machine that is not Running only makes its report and closes the loading window (R81). -/
theorem step_of_not_running {s : State} (hevent : s.nextEvent = .cycle) (hstopped : s.runState ≠ .running) :
    step s = .next s.popEvent.beginCycle := by
  rw [step_of_nextEvent hevent, deliver, cycle_of_not_running (by simpa using hstopped)]

/-- Settles O10: the fetch fault writes run state and report alone. -/
theorem fetchOutOfRangeHalts : Obligations.FetchOutOfRangeHalts := by
  intro s hevent hrunning hpc
  exact ⟨_, step_of_out_of_range hevent hrunning hpc, fun _ _ => rfl, fun _ => rfl, rfl⟩

/-- Settles O11: all that happens is the begin of a cycle. -/
theorem cycleWhileNotRunningChangesNothing : Obligations.CycleWhileNotRunningChangesNothing := by
  intro s hevent hstopped
  exact ⟨_, step_of_not_running hevent hstopped, fun _ _ => rfl, fun _ => rfl, rfl⟩

/-- A step that fetches runs the one handler of the word, or reports the word (R85, R86). -/
theorem step_of_aboutToFetch_cases {s : State} (hfetch : s.AboutToFetch) :
    (∃ i, step s = exec i s.handlerStart) ∨ step s = .next s.handlerStart.reportUndecodable := by
  cases hword : decode s.handlerStart.opcode with
  | ok i => exact .inl ⟨i, stepRunsTheDecodedInstruction s i hfetch hword⟩
  | error e => exact .inr (step_of_undecodable hfetch hword)

/-- What a Cycle event does (R81, R82, R85, R86). -/
inductive CycleResult (s : State) : Prop
  | stopped (hstep : step s = .next s.popEvent.beginCycle)
  | fetchFault (hstep : step s = .next s.popEvent.beginCycle.raiseFetchRange)
  | handler (i : Instr) (hfetch : s.AboutToFetch) (hstep : step s = exec i s.handlerStart)
  | undecodable (hfetch : s.AboutToFetch) (hstep : step s = .next s.handlerStart.reportUndecodable)

theorem cycleResult {s : State} (hevent : s.nextEvent = .cycle) : CycleResult s := by
  by_cases hrunning : s.runState = .running
  · by_cases hpc : s.pc.toNat ≤ 0x0FFE
    · have hfetch : s.AboutToFetch := ⟨hevent, hrunning, hpc⟩
      obtain ⟨i, hexec⟩ | hundecodable := step_of_aboutToFetch_cases hfetch
      · exact .handler i hfetch hexec
      · exact .undecodable hfetch hundecodable
    · exact .fetchFault (step_of_out_of_range hevent hrunning (Nat.lt_of_not_le hpc))
  · exact .stopped (step_of_not_running hevent hrunning)

/-! ### Tick, SetRunState, and Halted as a state nothing but Reset leaves -/

theorem countDown_toNat (b : Byte) : (countDown b).toNat = b.toNat - 1 := by
  unfold countDown
  split
  next hzero => rw [hzero]; rfl
  next hne => bv_omega

/-- Settles O21: the event writes both timers, each counted down, and its silent output. -/
theorem tickCountsBothTimersDown : Obligations.TickCountsBothTimersDown := by
  intro s hevent
  exact ⟨s.popEvent.afterTick, step_of_nextEvent hevent, countDown_toNat s.dt, countDown_toNat s.st, fun _ _ => rfl,
    fun _ => rfl, rfl⟩

theorem nextRunState_halted (r : RunState) : nextRunState .halted r = .halted := rfl

theorem nextRunState_of_not_halted {old : RunState} (r : RunState) (h : old ≠ .halted) : nextRunState old r = r := by
  cases old with
  | running | paused => rfl
  | halted => exact absurd rfl h

theorem State.afterSetRunState_runState (r : RunState) (s : State) :
    (s.afterSetRunState r).runState = nextRunState s.runState r := rfl

/-- Settles O23: the event writes the run state, by the table of moves, and its silent output. -/
theorem setRunStateNeverLeavesHalted : Obligations.SetRunStateNeverLeavesHalted := by
  intro s r hevent
  refine ⟨s.popEvent.afterSetRunState r, step_of_nextEvent hevent, fun hhalted => ?_, nextRunState_of_not_halted r,
    fun _ _ => rfl, fun _ => rfl, rfl⟩
  rw [State.afterSetRunState_runState, State.popEvent_runState, hhalted, nextRunState_halted]

/-- The loader writes memory and its result alone, whatever the source (R181). -/
theorem State.afterLoad_eq (source : Option (List Byte)) (s : State) :
    s.afterLoad source = { s with mem := (s.afterLoad source).mem, out := (s.afterLoad source).out } := by
  cases source with
  | none => rfl
  | some bytes =>
    by_cases hfits : bytes.length ≤ 3584
    · rw [State.afterLoad_of_fits s hfits, State.writeBytes_eq]
    · rw [State.afterLoad_of_too_long s (Nat.lt_of_not_le hfits)]

/-- A step that delivers an event whose effect is a state answers that state. -/
theorem step_next_eq {s t u : State} {e : HostEvent} (hevent : s.nextEvent = e) (heffect : deliver e s.popEvent = .next u)
    (hstep : step s = .next t) : t = u := by
  rw [step_of_nextEvent hevent, heffect] at hstep
  exact (Host.Outcome.next.inj hstep).symm

/-- A LoadImage event that answers a next state was admitted (R195). -/
theorem step_next_loadImage {s t : State} {source : Option (List Byte)} (hevent : s.nextEvent = .loadImage source)
    (hstep : step s = .next t) : t = s.popEvent.afterLoad source := by
  rw [step_of_nextEvent hevent, deliver] at hstep
  split at hstep
  · exact (Host.Outcome.next.inj hstep).symm
  · cases hstep

/-- Settles O18: the run state is written by no event but Reset, SetRunState and the cycle of a Running machine. -/
theorem haltedIsLeftOnlyByReset : Obligations.HaltedIsLeftOnlyByReset := by
  intro s t hhalted hstep
  have hstopped : s.runState ≠ .running := by rw [hhalted]; decide
  have hcycle : s.nextEvent = .cycle → t = s.popEvent.beginCycle := fun hevent =>
    Host.Outcome.next.inj (hstep.symm.trans (step_of_not_running hevent hstopped))
  refine ⟨?_, hcycle⟩
  cases hevent : s.nextEvent with
  | reset f => exact .inr ⟨f, rfl⟩
  | loadImage source =>
    left
    rw [step_next_loadImage hevent hstep, State.afterLoad_eq]
    exact hhalted
  | cycle => exact .inl (hcycle hevent ▸ hhalted)
  | tick | keySet | dirtyClear => exact .inl (step_next_eq hevent rfl hstep ▸ hhalted)
  | setRunState r =>
    left
    rw [step_next_eq hevent rfl hstep, State.afterSetRunState_runState, State.popEvent_runState, hhalted]
    rfl

/-! ### Reset -/

theorem Memory.unlisted_of_font {f : Font} {a : Nat} (h : f.base.val ≤ a ∧ a - f.base.val < 80) :
    Memory.unlisted f a = f.glyphs[a - f.base.val]'h.2 :=
  dif_pos h

theorem Memory.unlisted_of_not_font {f : Font} {a : Nat} (h : ¬ (f.base.val ≤ a ∧ a < f.base.val + 80)) :
    Memory.unlisted f a = 0x00#8 :=
  dif_neg (by omega)

/-- After Reset nothing is listed, so every address reads as unlisted (R190). -/
theorem State.byteAt_afterReset (f : Font) (s : State) (a : Nat) : (s.afterReset f).byteAt a = Memory.unlisted f a := rfl

theorem State.reg_afterReset (f : Font) (s : State) (r : Reg) : (s.afterReset f).reg r = 0x00#8 :=
  Vector.getElem_replicate _

theorem State.atResetValues_afterReset (f : Font) (s : State) : AtResetValues f (s.afterReset f) := by
  refine ⟨rfl, rfl, fun a h => ?font, fun a h => ?zero, s.reg_afterReset f, rfl, rfl, fun k => ?stack, rfl, rfl,
    fun y x => ?pixel, rfl, fun k => ?key, rfl⟩
  case font => rw [State.byteAt_afterReset, Memory.unlisted_of_font h]
  case zero => rw [State.byteAt_afterReset, Memory.unlisted_of_not_font h]
  case stack => exact Vector.getElem_replicate _
  case pixel => exact Framebuffer.cell_blank y x
  case key => exact Vector.getElem_replicate _

/-- Settles O25: the event's effect is the reset state with this font and the model's own schedule and draws. -/
theorem resetEventRestoresEverything : Obligations.ResetEventRestoresEverything := by
  intro s f hevent
  exact ⟨s.popEvent.afterReset f, step_of_nextEvent hevent, State.atResetValues_afterReset f _, rfl, rfl, rfl, rfl, rfl⟩

/-- Settles O26: the reset state is itself what Reset with the default font makes of it, and its font bytes are closed facts. -/
theorem resetStateIsAtResetValues : Obligations.ResetStateIsAtResetValues := by
  have hreset : AtResetValues defaultFont State.reset := State.atResetValues_afterReset defaultFont State.reset
  refine ⟨hreset, ?_⟩
  unfold MemoryShows
  decide

/-- Settles O27: nothing is listed, and `pc` and the zeroed stack are closed values. -/
theorem resetMeetsTheInvariants : Obligations.ResetMeetsTheInvariants := by
  have hbounded : State.reset.PcBounded := by
    unfold State.PcBounded
    decide
  exact ⟨State.reset_mem_wf, hbounded⟩

end Sys2Proof.Machine

/-! ## The other instructions one by one -/

namespace Sys2Proof.Machine

/-! ### Control transfer (R90, R92) -/

theorem exec_ret_of_empty {s : State} (h : s.sp.val = 0) : exec .ret s = .next s.raiseStackUnderflow := dif_pos h

theorem exec_ret_of_not_empty {s : State} (h : s.sp.val ≠ 0) : exec .ret s = .next (s.pop h) := dif_neg h

theorem exec_call_of_room {s : State} (nnn : Addr12) (h : s.sp.val < 16) :
    exec (.call nnn) s = .next ((s.push h).setPc (addrOf nnn)) := dif_pos h

theorem exec_call_of_full {s : State} (nnn : Addr12) (h : ¬ s.sp.val < 16) :
    exec (.call nnn) s = .next s.reportStackOverflow := dif_neg h

/-- The popped entry is the one below the stack pointer. -/
theorem State.pop_pc_of_sp {s : State} {k : Fin 16} (h : s.sp.val ≠ 0) (hk : s.sp.val = k.val + 1) :
    (s.pop h).pc = s.stack[k] := by
  rw [State.pop_pc]
  simp [hk]

/-- Settles O33: a stack that is not empty is popped, and the empty one is the fatal underflow. -/
theorem retPopsOrUnderflows : Obligations.RetPopsOrUnderflows := by
  intro s
  refine ⟨fun k hk => ?pop, fun hempty => ?underflow⟩
  case pop =>
    have hsome : s.sp.val ≠ 0 := by omega
    have hsp : (s.pop hsome).sp.val = k.val := by rw [State.pop_sp, hk, Nat.add_sub_cancel]
    exact ⟨_, exec_ret_of_not_empty hsome, State.pop_pc_of_sp hsome hk, hsp, fun _ _ => rfl, fun _ => rfl, rfl⟩
  case underflow => exact ⟨_, exec_ret_of_empty hempty, s.haltedWith_enterFatal _⟩

/-- Settles O35: the pushed entry is the advanced `pc` at the old stack pointer, and a full stack is a report alone. -/
theorem callPushesOrReports : Obligations.CallPushesOrReports := by
  intro nnn s
  refine ⟨fun k hk => ?push, fun hfull => ?overflow⟩
  case push =>
    have hroom : s.sp.val < 16 := by omega
    refine ⟨_, exec_call_of_room nnn hroom, addrOf_toNat nnn, congrArg (· + 1) hk, ?_, fun j hj => ?_, fun _ _ => rfl,
      fun _ => rfl, rfl⟩
    · rw [State.setPc_stack, State.push_stack, if_pos hk.symm]
    · have hother : j.val ≠ s.sp.val := fun h => hj (Fin.ext (h.trans hk))
      rw [State.setPc_stack, State.push_stack, if_neg hother]
  case overflow =>
    have hnoRoom : ¬ s.sp.val < 16 := by omega
    exact ⟨_, exec_call_of_full nnn hnoRoom, fun _ _ => rfl, fun _ => rfl, rfl⟩

/-! ### Skips (R103 to R106) -/

theorem exec_seReg (x y : Reg) (n : Nibble) (s : State) :
    exec (.seReg x y n) s = .next (s.skipIf (s.reg x == s.reg y)) := rfl

theorem exec_sneReg (x y : Reg) (n : Nibble) (s : State) :
    exec (.sneReg x y n) s = .next (s.skipIf (s.reg x != s.reg y)) := rfl

theorem exec_skp (x : Reg) (s : State) : exec (.skp x) s = .next (skipOnKey true x s) := rfl

theorem exec_sknp (x : Reg) (s : State) : exec (.sknp x) s = .next (skipOnKey false x s) := rfl

/-- Settles O38: as for the skips on an immediate, with a register in its place. -/
theorem registerSkips : Obligations.RegisterSkips := by
  intro x y n s
  have hencodeSe : encode (.seReg x y n) = 0x5#4 ++ regBits x ++ regBits y ++ n := rfl
  have hencodeSne : encode (.sneReg x y n) = 0x9#4 ++ regBits x ++ regBits y ++ n := rfl
  exact ⟨hencodeSe, hencodeSne,
    skips_of_exec_eq_skipIf (exec_seReg x y n s) beq_iff_eq.mpr beq_eq_false_iff_ne.mpr,
    skips_of_exec_eq_skipIf (exec_sneReg x y n s) bne_iff_ne.mpr bne_eq_false_iff_eq.mpr⟩

theorem skipOnKey_of_key {s : State} {x : Reg} {k : Key} (wantDown : Bool) (hk : (s.reg x).toNat = k.val) :
    skipOnKey wantDown x s = s.skipIf (s.keyDown k == wantDown) := by
  rw [skipOnKey, keyOf_of_lt _ k hk]

theorem skipOnKey_of_no_key {s : State} {x : Reg} (wantDown : Bool) (h : 15 < (s.reg x).toNat) :
    skipOnKey wantDown x s = s.drawn.skipIf (Config.freeSkip s.draws) := by
  rw [skipOnKey, keyOf_of_gt _ h]

/-- A free skip: either outcome, with one value drawn. -/
theorem State.drawn_skipIf_eq (c : Bool) (s : State) :
    s.drawn.skipIf c = { s with pc := (s.drawn.skipIf c).pc, draws := s.draws + 1 } := by
  cases c <;> rfl

theorem State.drawn_skipIf_pc (c : Bool) (s : State) :
    (s.drawn.skipIf c).pc = s.pc ∨ (s.drawn.skipIf c).pc = s.pc + 2#16 := by
  cases c
  · exact .inl rfl
  · exact .inr rfl

/-- A skip on a register that numbers no key goes either way, draws one value and changes nothing else (D12). -/
theorem skips_freely_of_exec_eq_skipOnKey {i : Instr} {s : State} {x : Reg} {wantDown : Bool}
    (hexec : exec i s = .next (skipOnKey wantDown x s)) (h : 15 < (s.reg x).toNat) :
    ∃ t, exec i s = .next t ∧ (t.pc = s.pc ∨ t.pc = s.pc + 2#16) ∧ SameRegsBut [] s t ∧ SameBytes s t ∧
      t = { s with pc := t.pc, draws := s.draws + 1 } := by
  rw [skipOnKey_of_no_key wantDown h] at hexec
  refine ⟨_, hexec, s.drawn_skipIf_pc _, fun r _ => ?_, fun a => ?_, s.drawn_skipIf_eq _⟩
  · rw [State.reg_skipIf, State.reg_drawn]
  · rw [State.byteAt_skipIf, State.byteAt_drawn]

/-- Settles O39: the bit tested is the key flag against the wanted value, or the free value when there is no such key. -/
theorem keySkips : Obligations.KeySkips := by
  intro x s
  refine ⟨fun k hk => ?key, fun hnone => ?free⟩
  case key =>
    have hskp := exec_skp x s
    have hsknp := exec_sknp x s
    rw [skipOnKey_of_key _ hk] at hskp hsknp
    refine ⟨⟨_, hskp, s.onlyPc_skipIf _, ?_⟩, ⟨_, hsknp, s.onlyPc_skipIf _, ?_⟩⟩
    · cases s.keyDown k <;> rfl
    · cases s.keyDown k <;> rfl
  case free =>
    exact ⟨skips_freely_of_exec_eq_skipOnKey (exec_skp x s) hnone, skips_freely_of_exec_eq_skipOnKey (exec_sknp x s) hnone⟩

/-! ### Arithmetic, logic, shifts and random (R113 to R123) -/

theorem exec_addImm (x : Reg) (nn : Byte) (s : State) : exec (.addImm x nn) s = .next (s.setReg x (s.reg x + nn)) := rfl

theorem exec_orReg (x y : Reg) (s : State) : exec (.orReg x y) s = .next (s.setReg x (s.reg x ||| s.reg y)) := rfl

theorem exec_andReg (x y : Reg) (s : State) : exec (.andReg x y) s = .next (s.setReg x (s.reg x &&& s.reg y)) := rfl

theorem exec_xorReg (x y : Reg) (s : State) : exec (.xorReg x y) s = .next (s.setReg x (s.reg x ^^^ s.reg y)) := rfl

theorem exec_shr (x : Reg) (y : Nibble) (s : State) :
    exec (.shr x y) s = .next (s.setResultAndFlag x (s.reg x >>> 1) (shiftRightFlag (s.reg x))) := rfl

theorem exec_shl (x : Reg) (y : Nibble) (s : State) :
    exec (.shl x y) s = .next (s.setResultAndFlag x (s.reg x <<< 1) (shiftLeftFlag (s.reg x))) := rfl

theorem exec_rnd (x : Reg) (nn : Byte) (s : State) :
    exec (.rnd x nn) s = .next (s.drawn.setReg x (Config.freeByte s.draws &&& nn)) := rfl

/-- Settles O41: one register write, of the byte sum. -/
theorem addImmAddsWithoutFlag : Obligations.AddImmAddsWithoutFlag := by
  intro x nn s
  obtain ⟨t, hexec, hreg, honly⟩ := loads_of_exec_eq_setReg (exec_addImm x nn s)
  exact ⟨t, hexec, by rw [hreg, BitVec.toNat_add], honly⟩

/-- Settles O43: one register write each, whose bits are by definition those of the two operands combined. -/
theorem logicIsBitwise : Obligations.LogicIsBitwise := by
  intro x y s
  refine ⟨?or, ?and, ?xor⟩
  case or =>
    obtain ⟨t, hexec, hreg, honly⟩ := loads_of_exec_eq_setReg (exec_orReg x y s)
    exact ⟨t, hexec, honly, fun k => by rw [hreg, BitVec.getLsbD_or]⟩
  case and =>
    obtain ⟨t, hexec, hreg, honly⟩ := loads_of_exec_eq_setReg (exec_andReg x y s)
    exact ⟨t, hexec, honly, fun k => by rw [hreg, BitVec.getLsbD_and]⟩
  case xor =>
    obtain ⟨t, hexec, hreg, honly⟩ := loads_of_exec_eq_setReg (exec_xorReg x y s)
    exact ⟨t, hexec, honly, fun k => by rw [hreg, BitVec.getLsbD_xor]⟩

theorem byte_ushiftRight_one_toNat (b : Byte) : (b >>> 1).toNat = b.toNat / 2 := by
  rw [BitVec.toNat_ushiftRight, Nat.shiftRight_one]

theorem byte_shiftLeft_one_toNat (b : Byte) : (b <<< 1).toNat = b.toNat * 2 % 256 := by
  rw [BitVec.toNat_shiftLeft, Nat.shiftLeft_eq, pow_one]

theorem shiftRightFlag_toNat (b : Byte) : (shiftRightFlag b).toNat = b.toNat % 2 := by
  revert b
  decide

theorem shiftLeftFlag_toNat (b : Byte) : (shiftLeftFlag b).toNat = b.toNat / 128 := by
  revert b
  decide

/-- Settles O47: result and flag are both numbers of the old VX, and the flag is written last. -/
theorem shiftsMoveOneBit : Obligations.ShiftsMoveOneBit := by
  intro x y s
  exact ⟨computes_of_exec_eq_setResultAndFlag (exec_shr x y s) (byte_ushiftRight_one_toNat _) (shiftRightFlag_toNat _),
    computes_of_exec_eq_setResultAndFlag (exec_shl x y s) (byte_shiftLeft_one_toNat _) (shiftLeftFlag_toNat _)⟩

/-- Settles O48: one register write, of the drawn byte masked, after one draw. -/
theorem rndMasksTheDrawnByte : Obligations.RndMasksTheDrawnByte := by
  intro x nn s
  obtain ⟨hregs, -, -⟩ := s.drawn.onlyRegs_setReg x (Config.freeByte s.draws &&& nn)
  have hreg := s.drawn.reg_setReg_self x (Config.freeByte s.draws &&& nn)
  refine ⟨_, exec_rnd x nn s, hreg, ?_, fun hzero => ?_, hregs, fun _ => rfl, rfl⟩
  · rw [hreg, BitVec.and_assoc, BitVec.and_self]
  · rw [hreg, hzero, BitVec.and_zero]

/-! ### The index register (R131, R132) -/

theorem exec_addIndex (x : Reg) (s : State) : exec (.addIndex x) s = .next (s.setIndex (s.index + s.regWord x)) := rfl

theorem exec_ldFont_of_digit {s : State} {x : Reg} (h : (s.reg x).toNat ≤ 15) :
    exec (.ldFont x) s = .next (s.setIndex (s.font.glyphAddress (s.reg x).toNat)) := if_pos h

theorem exec_ldFont_of_no_digit {s : State} {x : Reg} (h : ¬ (s.reg x).toNat ≤ 15) :
    exec (.ldFont x) s = .next (s.drawn.setIndex (Config.freeIndex s.draws)) := if_neg h

/-- Settles O50: one write of `I`, of the 16-bit sum. -/
theorem addIndexAddsSixteenBits : Obligations.AddIndexAddsSixteenBits := by
  intro x s
  have hsum : (s.index + s.regWord x).toNat = (s.index.toNat + (s.reg x).toNat) % 65536 := by
    rw [BitVec.toNat_add, State.regWord_toNat]
  exact ⟨_, exec_addIndex x s, hsum, s.onlyIndex_setIndex _⟩

/-- A glyph's address is far below 2^16: FONT_BASE is at most 0x1B0 (R5). -/
theorem Font.glyphAddress_toNat (f : Font) {d : Nat} (hd : d ≤ 15) : (f.glyphAddress d).toNat = f.base.val + 5 * d := by
  have hbase : f.base.val < 433 := f.base.isLt
  rw [Font.glyphAddress, BitVec.toNat_ofNat, Nat.mod_eq_of_lt (by omega)]

/-- Settles O51: one write of `I`, of the glyph's address or, after one draw, of the free value. -/
theorem ldFontPointsAtTheGlyph : Obligations.LdFontPointsAtTheGlyph := by
  intro x s
  refine ⟨fun hdigit => ?digit, fun habove => ?free⟩
  case digit => exact ⟨_, exec_ldFont_of_digit hdigit, s.font.glyphAddress_toNat hdigit, s.onlyIndex_setIndex _⟩
  case free =>
    exact ⟨_, exec_ldFont_of_no_digit (Nat.not_le_of_lt habove), rfl, fun _ _ => rfl, fun _ => rfl, rfl⟩

/-! ### The range check of an access (R46, R54) -/

/-- An instruction that is one checked access has its whole effect when the access is in range. -/
theorem exec_eq_effect_of_rangeOk {i : Instr} {s e : State} {len : Nat} (hexec : exec i s = .next (s.checkedAccess len e))
    (hrange : len = 0 ∨ s.index.toNat + len - 1 ≤ 0xFFF) : exec i s = .next e := by
  rw [hexec, State.checkedAccess_of_ok e hrange]

/-- An instruction that is one checked access takes the fatal `MemRange`, with the first address out of range, when it is not. -/
theorem halts_of_not_rangeOk {i : Instr} {s e : State} {len : Nat} (hexec : exec i s = .next (s.checkedAccess len e))
    (hrange : ¬ (len = 0 ∨ s.index.toNat + len - 1 ≤ 0xFFF)) :
    ∃ t m, exec i s = .next t ∧ m.toNat = max s.index.toNat 0x1000 ∧
      HaltedWith (.memRange (s.pc - 2#16) (some s.opcode) m) s t := by
  rw [State.checkedAccess_of_not_ok e hrange] at hexec
  exact ⟨_, s.rangeFaultAddr, hexec, s.rangeFaultAddr_toNat, s.haltedWith_enterFatal _⟩

theorem exec_drw (x y : Reg) (n : Nibble) (s : State) :
    exec (.drw x y n) s = .next (s.checkedAccess n.toNat (s.putCanvas (s.drawSprite x y n))) := rfl

theorem exec_ldBcd (x : Reg) (s : State) :
    exec (.ldBcd x) s = .next (s.checkedAccess 3 (State.writeBytes s.index.toNat (bcdDigits (s.reg x)) s)) := rfl

theorem exec_storeRegs (x : Reg) (s : State) :
    exec (.storeRegs x) s =
      .next (s.checkedAccess (x.val + 1) (State.writeBytes s.index.toNat ((regsUpTo x).map s.reg) s)) := rfl

theorem exec_loadRegs (x : Reg) (s : State) :
    exec (.loadRegs x) s = .next (s.checkedAccess (x.val + 1) (State.loadRegList (regsUpTo x) s)) := rfl

/-! ### The display (R140 to R145) -/

theorem exec_cls (s : State) : exec .cls s = .next { s with fb := Framebuffer.blank, dirty := true } := rfl

/-- Settles O30: the blank framebuffer and `dirty` are all that is written. -/
theorem clsBlanksTheDisplay : Obligations.ClsBlanksTheDisplay := by
  have hencode : encode .cls = 0x00E0#16 := rfl
  exact ⟨hencode, fun s => ⟨_, exec_cls s, Framebuffer.cell_blank, rfl, fun _ _ => rfl, fun _ => rfl, rfl⟩⟩

/-- The clipped sprite of `DRW Vx, Vy, N` as a picture, from the coordinates its registers hold (R142). -/
def State.spriteOf (x y : Reg) (n : Nibble) (s : State) (r : Fin 32) (c : Fin 64) : Bool :=
  s.spritePixel ((s.reg x).toNat % 64) ((s.reg y).toNat % 32) n.toNat r c

theorem State.underSprite_iff_spriteOf (x y : Reg) (n : Nibble) (s : State) (r : Fin 32) (c : Fin 64) :
    underSprite s (startColumn (s.reg x)) (startRow (s.reg y)) n.toNat r c ↔ s.spriteOf x y n r c = true :=
  underSprite_iff s _ _ _ r c

/-- Every cell is exclusive-ored with the sprite (R143). -/
theorem State.drawSprite_cell (x y : Reg) (n : Nibble) (s : State) (r : Fin 32) (c : Fin 64) :
    Framebuffer.cell (s.drawSprite x y n).fb r c = (s.pixel r c ^^ s.spriteOf x y n r c) := by
  have hcell : Framebuffer.cell (s.drawSprite x y n).fb r c = true ↔
      (s.pixel r c = true ↔ ¬ s.spriteOf x y n r c = true) :=
    (drawRows_cell s _ _ _ s.canvas r c).trans (by rw [State.underSprite_iff_spriteOf]; rfl)
  rw [Bool.eq_iff_iff, hcell]
  cases s.pixel r c <;> cases s.spriteOf x y n r c <;> decide

/-- A collision is a set sprite bit on a cell that is on (R143). -/
theorem State.drawSprite_collision (x y : Reg) (n : Nibble) (s : State) :
    (s.drawSprite x y n).collision = true ↔ ∃ r c, s.spriteOf x y n r c = true ∧ s.pixel r c = true := by
  have hcollision := drawRows_collision s (startColumn (s.reg x)) (startRow (s.reg y)) n.toNat s.canvas
  simp only [State.underSprite_iff_spriteOf, State.canvas, Bool.false_eq_true, false_or] at hcollision
  exact hcollision

/-- Some cell changes exactly when some set sprite bit is not clipped (R144). -/
theorem State.drawSprite_changed (x y : Reg) (n : Nibble) (s : State) :
    (s.drawSprite x y n).changed = true ↔ ∃ r c, s.spriteOf x y n r c = true := by
  have hchanged := drawRows_changed s (startColumn (s.reg x)) (startRow (s.reg y)) n.toNat s.canvas
  simp only [State.underSprite_iff_spriteOf, State.canvas, Bool.false_eq_true, false_or] at hchanged
  exact hchanged

/-- The machine after a sprite in range. -/
def State.afterDraw (x y : Reg) (n : Nibble) (s : State) : State := s.putCanvas (s.drawSprite x y n)

theorem exec_drw_of_rangeOk {x y : Reg} {n : Nibble} {s : State}
    (hrange : n.toNat = 0 ∨ s.index.toNat + n.toNat - 1 ≤ 0xFFF) : exec (.drw x y n) s = .next (s.afterDraw x y n) :=
  exec_eq_effect_of_rangeOk (exec_drw x y n s) hrange

theorem State.afterDraw_pixel (x y : Reg) (n : Nibble) (s : State) (r : Fin 32) (c : Fin 64) :
    (s.afterDraw x y n).pixel r c = (s.pixel r c ^^ s.spriteOf x y n r c) :=
  s.drawSprite_cell x y n r c

theorem State.afterDraw_flag (x y : Reg) (n : Nibble) (s : State) :
    (s.afterDraw x y n).reg 15 = flagByte (s.drawSprite x y n).collision := by
  rw [State.afterDraw, State.reg_putCanvas, flagReg_eq, if_pos rfl]

theorem State.afterDraw_flag_eq_one {x y : Reg} {n : Nibble} {s : State}
    (h : ∃ r c, s.spriteOf x y n r c = true ∧ s.pixel r c = true) : (s.afterDraw x y n).reg 15 = 0x01#8 := by
  rw [State.afterDraw_flag, flagByte_eq_one, State.drawSprite_collision]
  exact h

theorem State.afterDraw_flag_eq_zero {x y : Reg} {n : Nibble} {s : State}
    (h : ∀ r c, s.spriteOf x y n r c = true → s.pixel r c = false) : (s.afterDraw x y n).reg 15 = 0x00#8 := by
  rw [State.afterDraw_flag, flagByte_eq_zero, Bool.eq_false_iff, ne_eq, State.drawSprite_collision]
  rintro ⟨r, c, hset, hon⟩
  exact Bool.false_ne_true ((h r c hset).symm.trans hon)

theorem State.afterDraw_dirty (x y : Reg) (n : Nibble) (s : State) :
    (s.afterDraw x y n).dirty = true ↔ s.dirty = true ∨ ∃ r c, s.spriteOf x y n r c = true := by
  rw [State.afterDraw, State.putCanvas_dirty, Bool.or_eq_true, State.drawSprite_changed]

theorem State.afterDraw_sameRegs (x y : Reg) (n : Nibble) (s : State) : SameRegsBut [15] s (s.afterDraw x y n) := by
  intro r hr
  rw [State.afterDraw, State.reg_putCanvas, flagReg_eq, if_neg (by simpa using hr)]

/-- Settles O31: the canvas of the rasterizer, read cell by cell, put back into framebuffer, `V[15]` and `dirty` alone. -/
theorem drwDrawsTheClippedSprite : Obligations.DrwDrawsTheClippedSprite := by
  intro x y n s
  refine ⟨fun hrange => ?inRange, fun hsome hfar => ?outOfRange⟩
  case inRange =>
    exact ⟨_, exec_drw_of_rangeOk hrange, s.afterDraw_pixel x y n, State.afterDraw_flag_eq_one, State.afterDraw_flag_eq_zero,
      s.afterDraw_dirty x y n, s.afterDraw_sameRegs x y n, fun _ => rfl, rfl⟩
  case outOfRange =>
    have hnot : ¬ (n.toNat = 0 ∨ s.index.toNat + n.toNat - 1 ≤ 0xFFF) := by omega
    exact halts_of_not_rangeOk (exec_drw x y n s) hnot

/-- The machine after a sprite in range with its old registers back: the same sprite is drawn from it, on the new cells. -/
def State.redraw (x y : Reg) (n : Nibble) (s : State) : State := { s.afterDraw x y n with v := s.v }

theorem State.spriteOf_redraw (x y : Reg) (n : Nibble) (s : State) :
    (s.redraw x y n).spriteOf x y n = s.spriteOf x y n := rfl

theorem State.pixel_redraw (x y : Reg) (n : Nibble) (s : State) (r : Fin 32) (c : Fin 64) :
    (s.redraw x y n).pixel r c = (s.pixel r c ^^ s.spriteOf x y n r c) :=
  s.afterDraw_pixel x y n r c

/-- Exclusive-or with the same sprite twice is no change. -/
theorem State.fb_afterDraw_redraw (x y : Reg) (n : Nibble) (s : State) :
    ((s.redraw x y n).afterDraw x y n).fb = s.fb := by
  apply Framebuffer.ext_cell
  intro r c
  calc ((s.redraw x y n).afterDraw x y n).pixel r c
      = ((s.redraw x y n).pixel r c ^^ (s.redraw x y n).spriteOf x y n r c) := State.afterDraw_pixel x y n _ r c
    _ = ((s.pixel r c ^^ s.spriteOf x y n r c) ^^ s.spriteOf x y n r c) := by
        rw [State.pixel_redraw, State.spriteOf_redraw]
    _ = s.pixel r c := by rw [Bool.xor_assoc, Bool.xor_self, Bool.xor_false]

/-- Settles O32: the second draw meets the sprite the first one drew, so it erases it, and collides with it when there is any. -/
theorem drawingTwiceErases : Obligations.DrawingTwiceErases := by
  intro x y n s hrange
  refine ⟨s.afterDraw x y n, (s.redraw x y n).afterDraw x y n, exec_drw_of_rangeOk hrange, exec_drw_of_rangeOk hrange,
    s.fb_afterDraw_redraw x y n, fun hsome hoff => ⟨State.afterDraw_flag_eq_zero hoff, State.afterDraw_flag_eq_one ?_⟩⟩
  obtain ⟨r, c, hset⟩ := hsome
  have hset' : s.spriteOf x y n r c = true := hset
  refine ⟨r, c, hset, ?_⟩
  rw [State.pixel_redraw, hoff r c hset, hset']
  rfl

/-! ### The memory instructions (R133 to R135) -/

/-- Storing bytes from `I` on within memory: each is found at its place, and nothing else changes. -/
theorem State.stored (s : State) {bs : List Byte} (h : s.index.toNat + bs.length ≤ 4096) :
    MemoryShows (State.writeBytes s.index.toNat bs s) s.index.toNat bs ∧
      OnlyBytes s.index.toNat bs.length s (State.writeBytes s.index.toNat bs s) :=
  ⟨s.memoryShows_writeBytes _ _ h, s.onlyBytes_writeBytes _ _ h⟩

theorem byte_ofNat_toNat {d : Nat} (h : d < 256) : (BitVec.ofNat 8 d).toNat = d := Nat.mod_eq_of_lt h

/-- Settles O52: the three bytes stored are the digits, and the digits of a byte add up to it. -/
theorem ldBcdStoresThreeDigits : Obligations.LdBcdStoresThreeDigits := by
  intro x s
  have hencode : encode (.ldBcd x) = 0xF#4 ++ regBits x ++ 0x33#8 := rfl
  have hexec := exec_ldBcd x s
  refine ⟨hencode, fun hnear => ?inRange, fun hfar => ?outOfRange⟩
  case inRange =>
    have hroom : s.index.toNat + (bcdDigits (s.reg x)).length ≤ 4096 := by
      rw [length_bcdDigits]
      omega
    obtain ⟨hshows, honly⟩ := s.stored hroom
    have hbyte : (s.reg x).toNat < 256 := (s.reg x).isLt
    have h0 := (congrArg BitVec.toNat (hshows 0 (show 0 < 3 by decide))).trans (byte_ofNat_toNat (by omega))
    have h1 := (congrArg BitVec.toNat (hshows 1 (show 1 < 3 by decide))).trans (byte_ofNat_toNat (by omega))
    have h2 := (congrArg BitVec.toNat (hshows 2 (show 2 < 3 by decide))).trans (byte_ofNat_toNat (by omega))
    refine ⟨_, exec_eq_effect_of_rangeOk hexec (by omega), h0, h1, h2, ?_, honly⟩
    rw [Nat.add_zero] at h0
    rw [h0, h1, h2]
    omega
  case outOfRange => exact halts_of_not_rangeOk hexec (by omega)

theorem length_map_regsUpTo (x : Reg) (s : State) : ((regsUpTo x).map s.reg).length = x.val + 1 := by
  rw [List.length_map, length_regsUpTo]

/-- The block's byte number `r` is register `r`. -/
theorem getElem_map_regsUpTo {x r : Reg} (s : State) (h : r.val < ((regsUpTo x).map s.reg).length) :
    ((regsUpTo x).map s.reg)[r.val] = s.reg r := by
  have hplace : r.val < (regsUpTo x).length := by simpa using h
  have hreg : (regsUpTo x)[r.val] = r := Fin.ext (getElem_regsUpTo x r.val hplace)
  rw [List.getElem_map, hreg]

/-- Settles O53: the bytes stored are V0 to VX in their order. -/
theorem storeRegsStoresTheBlock : Obligations.StoreRegsStoresTheBlock := by
  intro x s
  have hencode : encode (.storeRegs x) = 0xF#4 ++ regBits x ++ 0x55#8 := rfl
  have hexec := exec_storeRegs x s
  have hlength := length_map_regsUpTo x s
  refine ⟨hencode, fun hnear => ?inRange, fun hfar => ?outOfRange⟩
  case inRange =>
    have hroom : s.index.toNat + ((regsUpTo x).map s.reg).length ≤ 4096 := by omega
    obtain ⟨hshows, honly⟩ := s.stored hroom
    refine ⟨_, exec_eq_effect_of_rangeOk hexec (by omega), fun r hr => ?_, hlength ▸ honly⟩
    have hplace : r.val < ((regsUpTo x).map s.reg).length := by
      rw [hlength]
      exact Nat.lt_succ_of_le hr
    rw [hshows r.val hplace, getElem_map_regsUpTo s hplace]
  case outOfRange => exact halts_of_not_rangeOk hexec (by omega)

/-- Settles O54: the block load writes the registers of the list V0 to VX alone, each with its byte. -/
theorem loadRegsLoadsTheBlock : Obligations.LoadRegsLoadsTheBlock := by
  intro x s
  have hencode : encode (.loadRegs x) = 0xF#4 ++ regBits x ++ 0x65#8 := rfl
  have hexec := exec_loadRegs x s
  refine ⟨hencode, fun hnear => ?inRange, fun hfar => ?outOfRange⟩
  case inRange =>
    refine ⟨_, exec_eq_effect_of_rangeOk hexec (by omega), fun r hr => ?_, fun r hr => ?_, fun a => ?_,
      State.loadRegList_eq _ s⟩
    · rw [State.reg_loadRegList, if_pos ((mem_regsUpTo x r).mpr hr)]
      rfl
    · rw [State.reg_loadRegList, if_neg (fun h => absurd ((mem_regsUpTo x r).mp h) (not_le_of_gt hr))]
    · rw [State.loadRegList_eq]
      rfl
  case outOfRange => exact halts_of_not_rangeOk hexec (by omega)

/-- Settles O55: the load reads the bytes the store left, at the same `I`. -/
theorem storeThenLoadRestoresRegisters : Obligations.StoreThenLoadRestoresRegisters := by
  intro x s v hrange
  obtain ⟨-, hstore, -⟩ := storeRegsStoresTheBlock x s
  obtain ⟨t, hexecStore, hbytes, -, -, ht⟩ := hstore hrange
  have hindex : t.index = s.index := by rw [ht]
  obtain ⟨-, hload, -⟩ := loadRegsLoadsTheBlock x { t with v := v }
  obtain ⟨u, hexecLoad, hregs, -⟩ := hload (by rw [hindex]; exact hrange)
  refine ⟨t, u, hexecStore, hexecLoad, fun r hr => ?_⟩
  calc u.reg r = t.byteAt (t.index.toNat + r.val) := hregs r hr
    _ = s.reg r := by rw [hindex, hbytes r hr]

/-- Settles O56: the store leaves the machine about to fetch, and the two bytes it fetches are the two registers. -/
theorem storedWordRunsNext : Obligations.StoredWordRunsNext := by
  intro x k l s i hl hlx hrange hpc hrunning hevent hword
  obtain ⟨-, hstore, -⟩ := storeRegsStoresTheBlock x s
  obtain ⟨t, hexec, hbytes, -, -, ht⟩ := hstore hrange
  have hpcSame : t.pc = s.pc := by rw [ht]
  have hlxVal : l.val ≤ x.val := hlx
  have hkx : k ≤ x := Nat.le_of_succ_le (hl.symm.trans_le hlxVal)
  have hfetch : t.AboutToFetch := by
    refine ⟨?_, ?_, ?_⟩
    · rw [ht]; exact hevent
    · rw [ht]; exact hrunning
    · rw [hpcSame, hpc]; omega
  have hhigh : t.byteAt t.pc.toNat = s.reg k := by
    rw [hpcSame, hpc, hbytes k hkx]
  have hlow : t.byteAt (t.pc.toNat + 1) = s.reg l := by
    rw [hpcSame, hpc, Nat.add_assoc, ← hl, hbytes l hlx]
  have hopcode : t.byteAt t.pc.toNat ++ t.byteAt (t.pc.toNat + 1) = s.reg k ++ s.reg l := by rw [hhigh, hlow]
  exact ⟨t, hexec, hpcSame, hopcode, stepRunsTheDecodedInstruction t i hfetch (by rw [hopcode]; exact hword)⟩

end Sys2Proof.Machine

/-! ## What an instruction can do

The inversion of `exec`: an instruction either completes as one of ten kinds of write, or takes a condition of its own. What every
instruction keeps is then a case analysis over the kinds. -/

namespace Sys2Proof.Machine

/-- A condition a handler takes for itself (R165): with its own address and word, and for `MemRange` the first address out of
range. -/
def State.OwnReport (s : State) (r : Report) : Prop :=
  r = .stackUnderflow (s.pc - 2#16) s.opcode ∨ r = .stackOverflow (s.pc - 2#16) s.opcode ∨
    ∃ m, r = .memRange (s.pc - 2#16) (some s.opcode) m ∧ m.toNat = max s.index.toNat 0x1000

/-- A condition taken: a fatal one halts the machine (R169), another is reported only (R170). -/
def State.takeCondition (r : Report) (s : State) : State := if r.fatal then s.enterFatal r else s.reportCondition r

theorem State.takeCondition_eq (r : Report) (s : State) :
    s.takeCondition r = { s with runState := if r.fatal then .halted else s.runState, out := .report r } := by
  unfold State.takeCondition
  cases r.fatal <;> rfl

/-- What `i` may make of `s`. Each kind of write names the fields it writes, with what the statements over all instructions ask of
them; `pcAfter` at the unchanged `pc` says that the instruction goes on to the following address. -/
inductive Effect (s : State) (i : Instr) : State → Prop
  | registers (v : Vector Byte 16) (d : Nat) (hregs : SameRegsBut (destRegs i) s { s with v := v })
      (hflag : writesFlag i = true → ∃ c, State.reg { s with v := v } 15 = flagByte c)
      (hpc : pcAfter i (s.pc - 2#16) s s.pc) : Effect s i { s with v := v, draws := d }
  | jump (p : Word) (d : Nat) (hflag : writesFlag i = false) (hpc : pcAfter i (s.pc - 2#16) s p) :
      Effect s i { s with pc := p, draws := d }
  | ret (hi : i = .ret) (h : s.sp.val ≠ 0) : Effect s i (s.pop h)
  | call (nnn : Addr12) (hi : i = .call nnn) (h : s.sp.val < 16) : Effect s i ((s.push h).setPc (addrOf nnn))
  | index (a : Word) (d : Nat) (hi : writesIndex i = true) (hflag : writesFlag i = false)
      (hpc : pcAfter i (s.pc - 2#16) s s.pc) : Effect s i { s with index := a, draws := d }
  | delay (x : Reg) (hi : i = .ldDtVx x) : Effect s i (s.setDt (s.reg x))
  | sound (x : Reg) (hi : i = .ldStVx x) : Effect s i (s.setSt (s.reg x))
  | clear (hi : i = .cls) : Effect s i { s with fb := Framebuffer.blank, dirty := true }
  | draw (x y : Reg) (n : Nibble) (hi : i = .drw x y n) : Effect s i (s.afterDraw x y n)
  | store (a : Nat) (bs : List Byte) (hi : writesMemory i = true) (hflag : writesFlag i = false)
      (hpc : pcAfter i (s.pc - 2#16) s s.pc) : Effect s i (State.writeBytes a bs s)
  | condition (r : Report) (hmay : mayReport i r = true) (hown : s.OwnReport r)
      (hpc : pcAfter i (s.pc - 2#16) s s.pc) : Effect s i (s.takeCondition r)

/-! ### Every instruction has such an effect -/

/-- Seen from the instruction's own address, the advanced `pc` is the following address (R83). -/
theorem pc_eq_sub_two_add_two (p : Word) : p = p - 2#16 + 2#16 := by bv_omega

/-- Seen from the instruction's own address, a skip lands 4 after it (R100). -/
theorem pc_add_two_eq_sub_two_add_four (p : Word) : p + 2#16 = p - 2#16 + 4#16 := by bv_omega

/-- A register write, or a draw and a register write. -/
theorem Effect.of_setReg {s : State} {i : Instr} {x : Reg} (b : Byte) (d : Nat) (hdest : destRegs i = [x])
    (hflag : writesFlag i = false) (hpc : pcAfter i (s.pc - 2#16) s s.pc) :
    Effect s i { s.setReg x b with draws := d } := by
  obtain ⟨hregs, -, -⟩ := s.onlyRegs_setReg x b
  refine .registers (s.setReg x b).v d (hdest ▸ hregs) (fun h => ?_) hpc
  rw [hflag] at h
  cases h

theorem Effect.of_setResultAndFlag {s : State} {i : Instr} {x : Reg} (result : Byte) (c : Bool) (hdest : destRegs i = [x, 15])
    (hpc : pcAfter i (s.pc - 2#16) s s.pc) : Effect s i (s.setResultAndFlag x result (flagByte c)) := by
  obtain ⟨hregs, -, -⟩ := s.onlyRegs_setResultAndFlag x result (flagByte c)
  exact .registers (s.setResultAndFlag x result (flagByte c)).v s.draws (hdest ▸ hregs)
    (fun _ => ⟨c, State.reg_setResultAndFlag_flag x result _ s⟩) hpc

/-- A state that differs in `pc` alone. -/
theorem Effect.of_onlyPc {s t : State} {i : Instr} (honly : OnlyPc s t) (hflag : writesFlag i = false)
    (hpc : pcAfter i (s.pc - 2#16) s t.pc) : Effect s i t := by
  obtain ⟨-, -, ht⟩ := honly
  rw [ht]
  exact .jump t.pc s.draws hflag hpc

theorem Effect.of_checkedAccess {s e : State} {i : Instr} (len : Nat) (heffect : Effect s i e)
    (hmay : ∀ a w m, mayReport i (.memRange a w m) = true) (hpc : pcAfter i (s.pc - 2#16) s s.pc) :
    Effect s i (s.checkedAccess len e) := by
  obtain hok | hfault := s.checkedAccess_cases len e
  · rw [hok]
    exact heffect
  · rw [hfault]
    exact .condition (.memRange s.iaddr (some s.opcode) s.rangeFaultAddr) (hmay _ _ _)
      (.inr (.inr ⟨_, rfl, s.rangeFaultAddr_toNat⟩)) hpc

/-- Where a skip goes, by the condition that makes it (R100). -/
theorem skip_target {p q : Word} {c : Prop} [Decidable c] (htaken : c → q = p + 2#16) (hnot : ¬ c → q = p) :
    q = if c then p - 2#16 + 4#16 else p - 2#16 + 2#16 := by
  by_cases hc : c
  · rw [if_pos hc, htaken hc, pc_add_two_eq_sub_two_add_four]
  · rw [if_neg hc, hnot hc, ← pc_eq_sub_two_add_two]

/-- Where a skip goes, by the condition that prevents it. -/
theorem skip_target_not {p q : Word} {c : Prop} [Decidable c] (hnot : c → q = p) (htaken : ¬ c → q = p + 2#16) :
    q = if c then p - 2#16 + 2#16 else p - 2#16 + 4#16 := by
  by_cases hc : c
  · rw [if_pos hc, hnot hc, ← pc_eq_sub_two_add_two]
  · rw [if_neg hc, htaken hc, pc_add_two_eq_sub_two_add_four]

/-- A skip goes to the following address or 2 beyond it, as seen from the instruction's own address. -/
theorem skip_targets {p q : Word} (h : q = p ∨ q = p + 2#16) : q = p - 2#16 + 2#16 ∨ q = p - 2#16 + 4#16 := by
  rwa [← pc_eq_sub_two_add_two, ← pc_add_two_eq_sub_two_add_four]

theorem ite_eq_or_eq {c : Prop} [Decidable c] (a b : Word) : (if c then a else b) = b ∨ (if c then a else b) = a := by
  by_cases hc : c
  · exact .inr (if_pos hc)
  · exact .inl (if_neg hc)

theorem exec_effect_seImm (x : Reg) (nn : Byte) (s : State) :
    ∃ t, exec (.seImm x nn) s = .next t ∧ Effect s (.seImm x nn) t := by
  obtain ⟨-, -, ⟨t, hexec, honly, htaken, hnot⟩, -⟩ := immediateSkips x nn s
  exact ⟨t, hexec, .of_onlyPc honly rfl (skip_target htaken hnot)⟩

theorem exec_effect_sneImm (x : Reg) (nn : Byte) (s : State) :
    ∃ t, exec (.sneImm x nn) s = .next t ∧ Effect s (.sneImm x nn) t := by
  obtain ⟨-, -, -, t, hexec, honly, htaken, hnot⟩ := immediateSkips x nn s
  exact ⟨t, hexec, .of_onlyPc honly rfl (skip_target_not hnot htaken)⟩

theorem exec_effect_seReg (x y : Reg) (n : Nibble) (s : State) :
    ∃ t, exec (.seReg x y n) s = .next t ∧ Effect s (.seReg x y n) t := by
  obtain ⟨-, -, ⟨t, hexec, honly, htaken, hnot⟩, -⟩ := registerSkips x y n s
  exact ⟨t, hexec, .of_onlyPc honly rfl (skip_target htaken hnot)⟩

theorem exec_effect_sneReg (x y : Reg) (n : Nibble) (s : State) :
    ∃ t, exec (.sneReg x y n) s = .next t ∧ Effect s (.sneReg x y n) t := by
  obtain ⟨-, -, -, t, hexec, honly, htaken, hnot⟩ := registerSkips x y n s
  exact ⟨t, hexec, .of_onlyPc honly rfl (skip_target_not hnot htaken)⟩

/-- A register that numbers a key numbers only that one. -/
theorem key_unique {n : Nat} {k j : Key} (hk : n = k.val) (hj : n = j.val) : k = j := Fin.ext (hk.symm.trans hj)

/-- A skip on a key has the effect of a jump: the key's flag decides when there is such a key, and either may come when there is
none. -/
theorem exec_effect_of_skipOnKey {i : Instr} {s : State} {x : Reg} {wantDown : Bool}
    (hexec : exec i s = .next (skipOnKey wantDown x s)) (hflag : writesFlag i = false)
    (hpc : ∀ q, (∀ k : Key, (s.reg x).toNat = k.val → q = if s.keyDown k == wantDown then s.pc + 2#16 else s.pc) →
      (q = s.pc ∨ q = s.pc + 2#16) → pcAfter i (s.pc - 2#16) s q) :
    ∃ t, exec i s = .next t ∧ Effect s i t := by
  refine ⟨_, hexec, ?_⟩
  by_cases habove : 15 < (s.reg x).toNat
  · rw [skipOnKey_of_no_key wantDown habove, State.drawn_skipIf_eq]
    exact .jump _ _ hflag (hpc _ (fun k hk => absurd hk (by omega)) (s.drawn_skipIf_pc _))
  · obtain ⟨k, hk⟩ : ∃ k : Key, (s.reg x).toNat = k.val := ⟨⟨(s.reg x).toNat, by omega⟩, rfl⟩
    rw [skipOnKey_of_key wantDown hk]
    refine .of_onlyPc (s.onlyPc_skipIf _) hflag (hpc _ (fun j hj => ?_) ?_)
    · obtain rfl : k = j := key_unique hk hj
      exact s.skipIf_pc _
    · rw [State.skipIf_pc]
      exact ite_eq_or_eq _ _

theorem exec_effect_skp (x : Reg) (s : State) : ∃ t, exec (.skp x) s = .next t ∧ Effect s (.skp x) t := by
  refine exec_effect_of_skipOnKey (exec_skp x s) rfl fun q hkey hq => ⟨fun k hk => ?_, skip_targets hq⟩
  exact skip_target (fun hdown => by rw [hkey k hk, hdown]; rfl) (fun hup => by simp [hkey k hk, hup])

theorem exec_effect_sknp (x : Reg) (s : State) : ∃ t, exec (.sknp x) s = .next t ∧ Effect s (.sknp x) t := by
  refine exec_effect_of_skipOnKey (exec_sknp x s) rfl fun q hkey hq => ⟨fun k hk => ?_, skip_targets hq⟩
  exact skip_target_not (fun hdown => by rw [hkey k hk, hdown]; rfl) (fun hup => by simp [hkey k hk, hup])

theorem pcAfter_call_iff (nnn : Addr12) (a p : Word) (s : State) :
    pcAfter (.call nnn) a s p ↔ if s.sp.val < 16 then p.toNat = nnn.toNat else p = a + 2#16 := Iff.rfl

theorem pcAfter_call_of_full {nnn : Addr12} {a p : Word} {s : State} (hfull : ¬ s.sp.val < 16) (hp : p = a + 2#16) :
    pcAfter (.call nnn) a s p := by
  rw [pcAfter_call_iff, if_neg hfull]
  exact hp

theorem pcAfter_call_of_room {nnn : Addr12} {a p : Word} {s : State} (hroom : s.sp.val < 16) (hp : p.toNat = nnn.toNat) :
    pcAfter (.call nnn) a s p := by
  rw [pcAfter_call_iff, if_pos hroom]
  exact hp

theorem exec_effect_ret (s : State) : ∃ t, exec .ret s = .next t ∧ Effect s .ret t := by
  by_cases hempty : s.sp.val = 0
  · refine ⟨_, exec_ret_of_empty hempty, .condition (.stackUnderflow s.iaddr s.opcode) rfl (.inl rfl) ⟨?_, ?_⟩⟩
    · exact fun _ => pc_eq_sub_two_add_two s.pc
    · exact fun k hk => absurd (hempty.symm.trans hk) (Nat.succ_ne_zero _).symm
  · exact ⟨_, exec_ret_of_not_empty hempty, .ret rfl hempty⟩

theorem exec_effect_call (nnn : Addr12) (s : State) : ∃ t, exec (.call nnn) s = .next t ∧ Effect s (.call nnn) t := by
  by_cases hroom : s.sp.val < 16
  · exact ⟨_, exec_call_of_room nnn hroom, .call nnn rfl hroom⟩
  · refine ⟨_, exec_call_of_full nnn hroom, .condition (.stackOverflow s.iaddr s.opcode) rfl (.inr (.inl rfl)) ?_⟩
    exact pcAfter_call_of_full hroom (pc_eq_sub_two_add_two s.pc)

theorem exec_effect_ldVxKey (x : Reg) (s : State) : ∃ t, exec (.ldVxKey x) s = .next t ∧ Effect s (.ldVxKey x) t := by
  cases hscan : s.lowestKeyDown with
  | some k =>
    obtain ⟨hdown, -⟩ := (s.lowestKeyDown_eq_some k).mp hscan
    refine ⟨_, exec_ldVxKey_of_some x hscan, .of_setReg _ _ rfl rfl ⟨fun _ => pc_eq_sub_two_add_two s.pc, fun hup => ?_⟩⟩
    exact absurd ((hup k).symm.trans hdown) Bool.false_ne_true
  | none =>
    have hup := s.lowestKeyDown_eq_none.mp hscan
    refine ⟨_, exec_ldVxKey_of_none x hscan, .of_onlyPc (s.onlyPc_setPc _) rfl ⟨fun ⟨k, hdown⟩ => ?_, fun _ => rfl⟩⟩
    exact absurd ((hup k).symm.trans hdown) Bool.false_ne_true

theorem exec_effect_ldFont (x : Reg) (s : State) : ∃ t, exec (.ldFont x) s = .next t ∧ Effect s (.ldFont x) t := by
  by_cases hdigit : (s.reg x).toNat ≤ 15
  · exact ⟨_, exec_ldFont_of_digit hdigit, .index _ s.draws rfl rfl (pc_eq_sub_two_add_two s.pc)⟩
  · exact ⟨_, exec_ldFont_of_no_digit hdigit, .index _ (s.draws + 1) rfl rfl (pc_eq_sub_two_add_two s.pc)⟩

/-- The block load in range writes the registers of its list alone. -/
theorem Effect.of_loadRegList (x : Reg) (s : State) : Effect s (.loadRegs x) (State.loadRegList (regsUpTo x) s) := by
  rw [State.loadRegList_eq]
  refine .registers _ s.draws (fun r hr => ?_) nofun (pc_eq_sub_two_add_two s.pc)
  exact (State.reg_loadRegList _ s r).trans (if_neg hr)

/-- Every instruction answers a next state, and with one of these effects. -/
theorem exec_effect (i : Instr) (s : State) : ∃ t, exec i s = .next t ∧ Effect s i t := by
  have hpc : s.pc = s.pc - 2#16 + 2#16 := pc_eq_sub_two_add_two s.pc
  cases i with
  | cls => exact ⟨_, exec_cls s, .clear rfl⟩
  | ret => exact exec_effect_ret s
  | jp nnn => exact ⟨_, exec_jp nnn s, .of_onlyPc (s.onlyPc_setPc _) rfl (addrOf_toNat nnn)⟩
  | jpV0 nnn => exact ⟨_, exec_jpV0 nnn s, .of_onlyPc (s.onlyPc_setPc _) rfl (addrOf_add_regWord_toNat nnn s 0)⟩
  | call nnn => exact exec_effect_call nnn s
  | seImm x nn => exact exec_effect_seImm x nn s
  | sneImm x nn => exact exec_effect_sneImm x nn s
  | seReg x y n => exact exec_effect_seReg x y n s
  | sneReg x y n => exact exec_effect_sneReg x y n s
  | skp x => exact exec_effect_skp x s
  | sknp x => exact exec_effect_sknp x s
  | ldImm | addImm | ldReg | orReg | andReg | xorReg | ldVxDt => exact ⟨_, rfl, .of_setReg _ s.draws rfl rfl hpc⟩
  | rnd => exact ⟨_, rfl, .of_setReg _ (s.draws + 1) rfl rfl hpc⟩
  | addReg | subReg | subnReg | shr | shl => exact ⟨_, rfl, .of_setResultAndFlag _ _ rfl hpc⟩
  | ldVxKey x => exact exec_effect_ldVxKey x s
  | ldIndex | addIndex => exact ⟨_, rfl, .index _ s.draws rfl rfl hpc⟩
  | ldFont x => exact exec_effect_ldFont x s
  | ldDtVx x => exact ⟨_, exec_ldDtVx x s, .delay x rfl⟩
  | ldStVx x => exact ⟨_, exec_ldStVx x s, .sound x rfl⟩
  | drw x y n => exact ⟨_, exec_drw x y n s, .of_checkedAccess _ (.draw x y n rfl) (fun _ _ _ => rfl) hpc⟩
  | ldBcd x => exact ⟨_, exec_ldBcd x s, .of_checkedAccess _ (.store _ _ rfl rfl hpc) (fun _ _ _ => rfl) hpc⟩
  | storeRegs x => exact ⟨_, exec_storeRegs x s, .of_checkedAccess _ (.store _ _ rfl rfl hpc) (fun _ _ _ => rfl) hpc⟩
  | loadRegs x => exact ⟨_, exec_loadRegs x s, .of_checkedAccess _ (.of_loadRegList x s) (fun _ _ _ => rfl) hpc⟩

theorem effect_of_exec {i : Instr} {s t : State} (hexec : exec i s = .next t) : Effect s i t := by
  obtain ⟨u, hu, heffect⟩ := exec_effect i s
  obtain rfl : u = t := Host.Outcome.next.inj (hu.symm.trans hexec)
  exact heffect

/-! ### Where it leaves `pc` -/

theorem Effect.pc {i : Instr} {s t : State} (heffect : Effect s i t) : pcAfter i (s.pc - 2#16) s t.pc := by
  cases heffect with
  | registers v d hregs hflag hpc => exact hpc
  | jump p d hflag hpc => exact hpc
  | ret hi h =>
    subst hi
    exact ⟨fun hempty => absurd hempty h, fun k hk => State.pop_pc_of_sp h hk⟩
  | call nnn hi h =>
    subst hi
    exact pcAfter_call_of_room h (addrOf_toNat nnn)
  | index a d hi hflag hpc => exact hpc
  | delay x hi | sound x hi | clear hi | draw x y n hi =>
    subst hi
    exact pc_eq_sub_two_add_two s.pc
  | store a bs hi hflag hpc =>
    rw [State.writeBytes_eq]
    exact hpc
  | condition r hmay hown hpc =>
    rw [State.takeCondition_eq]
    exact hpc

/-- Settles O13: the handler starts 2 beyond the instruction's own address, and an undecodable word and a fetch fault have no
handler. -/
theorem pcAfterEachInstruction : Obligations.PcAfterEachInstruction := by
  refine ⟨fun s t i hfetch hword hstep => ?handler, fun s t e hfetch hword hstep => ?undecodable,
    fun s t hevent hrunning hpc hstep => ?fault⟩
  case handler =>
    rw [stepRunsTheDecodedInstruction s i hfetch hword] at hstep
    have hafter := (effect_of_exec hstep).pc
    have haddr : s.handlerStart.pc - 2#16 = s.pc := s.iaddr_handlerStart
    rw [haddr] at hafter
    exact hafter
  case undecodable =>
    rw [step_of_undecodable hfetch hword] at hstep
    obtain rfl := Host.Outcome.next.inj hstep
    rfl
  case fault =>
    rw [step_of_out_of_range hevent hrunning hpc] at hstep
    obtain rfl := Host.Outcome.next.inj hstep
    rfl

/-! ### What it reports -/

/-- An instruction completes without a report, or takes a condition of its row. -/
theorem Effect.completes_or_condition {i : Instr} {s t : State} (heffect : Effect s i t) :
    (t.out = s.out ∧ t.runState = s.runState) ∨
      ∃ r, mayReport i r = true ∧ s.OwnReport r ∧ t = s.takeCondition r := by
  cases heffect with
  | condition r hmay hown hpc => exact .inr ⟨r, hmay, hown, rfl⟩
  | store a bs hi hflag hpc =>
    left
    rw [State.writeBytes_eq]
    exact ⟨rfl, rfl⟩
  | registers | jump | ret | call | index | delay | sound | clear | draw => exact .inl ⟨rfl, rfl⟩

/-- Settles O15: a condition taken writes the report and, when it is fatal, the run state. -/
theorem conditionsAnInstructionCanRaise : Obligations.ConditionsAnInstructionCanRaise := by
  intro i s t hexec
  obtain hcompletes | ⟨r, hmay, hown, rfl⟩ := (effect_of_exec hexec).completes_or_condition
  · exact .inl hcompletes
  · rw [State.takeCondition_eq]
    exact .inr ⟨r, hmay, rfl, rfl, hown⟩

/-- Settles O14: the machine that a handler found Running can be Halted only by a fatal condition, which writes nothing else. -/
theorem fatalConditionsArePrecise : Obligations.FatalConditionsArePrecise := by
  refine ⟨fun s t hfetch hstep hhalted => ?handler, fun s t hevent hrunning hpc hstep => ?fault⟩
  case handler =>
    have ⟨_, hrun, _⟩ := hfetch
    have hrunning : s.handlerStart.runState = .running := hrun
    obtain ⟨i, hexec⟩ | hundecodable := step_of_aboutToFetch_cases hfetch
    · rw [hexec] at hstep
      obtain ⟨-, hsame⟩ | ⟨r, -, -, rfl⟩ := (effect_of_exec hstep).completes_or_condition
      · rw [hhalted, hrunning] at hsame
        cases hsame
      · rw [State.takeCondition_eq] at hhalted ⊢
        cases hfatal : r.fatal with
        | false =>
          rw [hfatal] at hhalted
          cases hrunning.symm.trans hhalted
        | true => exact ⟨fun _ _ => rfl, fun _ => rfl, ⟨r, hfatal, rfl⟩, rfl⟩
    · rw [hundecodable] at hstep
      obtain rfl := Host.Outcome.next.inj hstep
      cases hrunning.symm.trans hhalted
  case fault =>
    rw [step_of_out_of_range hevent hrunning hpc] at hstep
    obtain rfl := Host.Outcome.next.inj hstep
    exact ⟨fun _ _ => rfl, fun _ => rfl, ⟨.memRange s.pc none s.pc, rfl, rfl⟩, rfl⟩

/-! ### What it writes -/

/-- Settles O16: a kind of write leaves every field alone that it does not name, and only the instructions of that kind make
it. -/
theorem whoWritesWhat : Obligations.WhoWritesWhat := by
  intro i s t hexec
  cases effect_of_exec hexec with
  | registers | jump =>
    exact ⟨fun _ => rfl, fun _ => rfl, fun _ => rfl, fun _ => rfl, fun _ => rfl, fun _ => ⟨rfl, rfl⟩, id,
      fun _ => ⟨fun _ => rfl, rfl⟩, rfl, rfl, rfl, rfl, rfl⟩
  | condition r hmay hown hpc =>
    rw [State.takeCondition_eq]
    exact ⟨fun _ => rfl, fun _ => rfl, fun _ => rfl, fun _ => rfl, fun _ => rfl, fun _ => ⟨rfl, rfl⟩, id,
      fun _ => ⟨fun _ => rfl, rfl⟩, rfl, rfl, rfl, rfl, rfl⟩
  | ret hi h =>
    subst hi
    exact ⟨fun _ => rfl, fun _ => rfl, nofun, fun _ => rfl, fun _ => rfl, fun _ => ⟨rfl, rfl⟩, id,
      fun _ => ⟨fun _ => rfl, rfl⟩, rfl, rfl, rfl, rfl, rfl⟩
  | call nnn hi h =>
    subst hi
    exact ⟨fun _ => rfl, fun hnot => absurd rfl (hnot nnn), nofun, fun _ => rfl, fun _ => rfl, fun _ => ⟨rfl, rfl⟩, id,
      fun _ => ⟨fun _ => rfl, rfl⟩, rfl, rfl, rfl, rfl, rfl⟩
  | index a d hi hflag hpc =>
    exact ⟨fun hnot => absurd (hi.symm.trans hnot) (by decide), fun _ => rfl, fun _ => rfl, fun _ => rfl, fun _ => rfl,
      fun _ => ⟨rfl, rfl⟩, id, fun _ => ⟨fun _ => rfl, rfl⟩, rfl, rfl, rfl, rfl, rfl⟩
  | delay x hi =>
    exact ⟨fun _ => rfl, fun _ => rfl, fun _ => rfl, fun hnot => absurd hi (hnot x), fun _ => rfl, fun _ => ⟨rfl, rfl⟩, id,
      fun _ => ⟨fun _ => rfl, rfl⟩, rfl, rfl, rfl, rfl, rfl⟩
  | sound x hi =>
    exact ⟨fun _ => rfl, fun _ => rfl, fun _ => rfl, fun _ => rfl, fun hnot => absurd hi (hnot x), fun _ => ⟨rfl, rfl⟩, id,
      fun _ => ⟨fun _ => rfl, rfl⟩, rfl, rfl, rfl, rfl, rfl⟩
  | clear hi =>
    subst hi
    exact ⟨fun _ => rfl, fun _ => rfl, fun _ => rfl, fun _ => rfl, fun _ => rfl, nofun, fun _ => rfl,
      fun _ => ⟨fun _ => rfl, rfl⟩, rfl, rfl, rfl, rfl, rfl⟩
  | draw x y n hi =>
    subst hi
    exact ⟨fun _ => rfl, fun _ => rfl, fun _ => rfl, fun _ => rfl, fun _ => rfl, nofun,
      fun hdirty => (s.afterDraw_dirty x y n).mpr (.inl hdirty), fun _ => ⟨fun _ => rfl, rfl⟩, rfl, rfl, rfl, rfl, rfl⟩
  | store a bs hi hflag hpc =>
    rw [State.writeBytes_eq]
    exact ⟨fun _ => rfl, fun _ => rfl, fun _ => rfl, fun _ => rfl, fun _ => rfl, fun _ => ⟨rfl, rfl⟩, id,
      fun hnot => absurd (hi.symm.trans hnot) (by decide), rfl, rfl, rfl, rfl, rfl⟩

theorem flagByte_zero_or_one (c : Bool) : flagByte c = 0x00#8 ∨ flagByte c = 0x01#8 := by
  cases c
  · exact .inl rfl
  · exact .inr rfl

/-- The one flag writer that can take a condition is DRW, and its condition is fatal. -/
theorem fatal_of_writesFlag {i : Instr} {r : Report} (hmay : mayReport i r = true) (hflag : writesFlag i = true) :
    r.fatal = true := by
  unfold mayReport at hmay
  split at hmay
  next => cases hflag
  next => cases hflag
  next => rfl
  next => rfl
  next => rfl
  next => rfl
  next => cases hmay

/-- Settles O17: the kinds that write registers write only destinations, and a flag writer ends with a flag byte in `V[15]` or
with its fatal condition. -/
theorem instructionsWriteOnlyTheirRegisters : Obligations.InstructionsWriteOnlyTheirRegisters := by
  intro i s t hexec
  have hnoFlag {c : Prop} (hnot : writesFlag i = false) (hflag : writesFlag i = true) : c :=
    absurd (hflag.symm.trans hnot) (by decide)
  cases effect_of_exec hexec with
  | registers v d hregs hflag hpc =>
    refine ⟨hregs, fun h => ?_⟩
    obtain ⟨c, hc⟩ := hflag h
    have hreg : State.reg { s with v := v, draws := d } 15 = flagByte c := hc
    rw [hreg]
    exact (flagByte_zero_or_one c).imp_right .inl
  | jump p d hflag hpc | index a d hi hflag hpc => exact ⟨fun _ _ => rfl, hnoFlag hflag⟩
  | store a bs hi hflag hpc =>
    rw [State.writeBytes_eq]
    exact ⟨fun _ _ => rfl, hnoFlag hflag⟩
  | ret hi h | call nnn hi h | delay x hi | sound x hi | clear hi => exact ⟨fun _ _ => rfl, hnoFlag (hi ▸ rfl)⟩
  | draw x y n hi =>
    subst hi
    refine ⟨s.afterDraw_sameRegs x y n, fun _ => ?_⟩
    rw [State.afterDraw_flag]
    exact (flagByte_zero_or_one _).imp_right .inl
  | condition r hmay hown hpc =>
    rw [State.takeCondition_eq]
    refine ⟨fun _ _ => rfl, fun hflag => .inr (.inr ⟨r, fatal_of_writesFlag hmay hflag, fun _ _ => rfl, fun _ => rfl, ?_⟩)⟩
    rw [fatal_of_writesFlag hmay hflag]
    rfl

/-! ### It does not read `ST` or `opcode` -/

/-- The machine with other values in `ST`, `opcode` and the report, and everything else as it is. -/
def State.withUnread (b : Byte) (w : Word) (o : Output) (s : State) : State := { s with st := b, opcode := w, out := o }

theorem State.skipIf_withUnread (b : Byte) (w : Word) (o : Output) (c : Bool) (s : State) :
    (s.withUnread b w o).skipIf c = (s.skipIf c).withUnread b w o := by
  cases c <;> rfl

theorem State.writeBytes_withUnread (b : Byte) (w : Word) (o : Output) (a : Nat) (bs : List Byte) (s : State) :
    State.writeBytes a bs (s.withUnread b w o) = (State.writeBytes a bs s).withUnread b w o := by
  induction bs generalizing a s with
  | nil => rfl
  | cons c bs ih => exact ih (a + 1) (s.writeByte a c)

theorem State.loadRegList_withUnread (b : Byte) (w : Word) (o : Output) (rs : List Reg) (s : State) :
    State.loadRegList rs (s.withUnread b w o) = (State.loadRegList rs s).withUnread b w o := by
  induction rs generalizing s with
  | nil => rfl
  | cons r rs ih => exact ih (s.setReg r (s.byteAt (s.effAddr r.val)))

theorem skipOnKey_withUnread (b : Byte) (w : Word) (o : Output) (wantDown : Bool) (x : Reg) (s : State) :
    skipOnKey wantDown x (s.withUnread b w o) = (skipOnKey wantDown x s).withUnread b w o := by
  have hreg : (s.withUnread b w o).reg x = s.reg x := rfl
  unfold skipOnKey
  rw [hreg]
  cases keyOf (s.reg x) with
  | none => exact State.skipIf_withUnread b w o _ s.drawn
  | some k => exact State.skipIf_withUnread b w o _ s

/-- `i` does the same on the two machines but for `ST`, `opcode` and the report; it keeps `opcode`, and answers with the `ST` or the
report of the one machine when the other has the same `ST` or the same word. -/
def SameButUnread (i : Instr) (b : Byte) (w : Word) (s : State) : Prop :=
  ∃ t b' o, exec i s = .next t ∧ exec i (s.withUnread b w s.out) = .next (t.withUnread b' w o) ∧
    (b = s.st → b' = t.st) ∧ (w = s.opcode → w = t.opcode ∧ o = t.out)

/-- An instruction that keeps `ST` and `opcode` on both machines, and reports the word, if at all, by one rule. -/
theorem SameButUnread.of_reported {i : Instr} {b : Byte} {w : Word} {s t : State} (o : Word → Output)
    (hexec : exec i s = .next t) (hexec' : exec i (s.withUnread b w s.out) = .next (t.withUnread b w (o w)))
    (hst : t.st = s.st) (hopcode : t.opcode = s.opcode) (hout : o s.opcode = t.out) : SameButUnread i b w s :=
  ⟨t, b, o w, hexec, hexec', fun h => h.trans hst.symm, fun h => ⟨h.trans hopcode.symm, h ▸ hout⟩⟩

/-- An instruction that keeps `ST`, `opcode` and the report on both machines. -/
theorem SameButUnread.of_kept {i : Instr} {b : Byte} {w : Word} {s t : State} (hexec : exec i s = .next t)
    (hexec' : exec i (s.withUnread b w s.out) = .next (t.withUnread b w s.out))
    (ht : t = t.withUnread s.st s.opcode s.out) : SameButUnread i b w s := by
  have hst : t.st = (t.withUnread s.st s.opcode s.out).st := congrArg State.st ht
  have hopcode : t.opcode = (t.withUnread s.st s.opcode s.out).opcode := congrArg State.opcode ht
  have hout : t.out = (t.withUnread s.st s.opcode s.out).out := congrArg State.out ht
  exact .of_reported (fun _ => s.out) hexec hexec' hst hopcode hout.symm

/-- The range check reads neither; its report quotes the word. -/
theorem SameButUnread.of_checkedAccess {i : Instr} {b : Byte} {w : Word} {s e e' : State} {len : Nat}
    (hexec : exec i s = .next (s.checkedAccess len e))
    (hexec' : exec i (s.withUnread b w s.out) = .next ((s.withUnread b w s.out).checkedAccess len e'))
    (heffect : e' = e.withUnread b w s.out) (he : e = e.withUnread s.st s.opcode s.out) : SameButUnread i b w s := by
  by_cases hrange : len = 0 ∨ s.index.toNat + len - 1 ≤ 0xFFF
  · rw [State.checkedAccess_of_ok _ hrange] at hexec
    rw [State.checkedAccess_of_ok (s := s.withUnread b w s.out) _ hrange, heffect] at hexec'
    exact .of_kept hexec hexec' he
  · rw [State.checkedAccess_of_not_ok _ hrange] at hexec
    rw [State.checkedAccess_of_not_ok (s := s.withUnread b w s.out) _ hrange] at hexec'
    exact .of_reported (fun w => .report (.memRange s.iaddr (some w) s.rangeFaultAddr)) hexec hexec' rfl rfl rfl

theorem sameButUnread (i : Instr) (b : Byte) (w : Word) (s : State) : SameButUnread i b w s := by
  cases i with
  | ret =>
    by_cases hempty : s.sp.val = 0
    · exact .of_reported (fun w => .report (.stackUnderflow s.iaddr w)) (exec_ret_of_empty hempty)
        (exec_ret_of_empty (s := s.withUnread b w s.out) hempty) rfl rfl rfl
    · exact .of_kept (exec_ret_of_not_empty hempty) (exec_ret_of_not_empty (s := s.withUnread b w s.out) hempty) rfl
  | call nnn =>
    by_cases hroom : s.sp.val < 16
    · exact .of_kept (exec_call_of_room nnn hroom) (exec_call_of_room (s := s.withUnread b w s.out) nnn hroom) rfl
    · exact .of_reported (fun w => .report (.stackOverflow s.iaddr w)) (exec_call_of_full nnn hroom)
        (exec_call_of_full (s := s.withUnread b w s.out) nnn hroom) rfl rfl rfl
  | ldFont x =>
    by_cases hdigit : (s.reg x).toNat ≤ 15
    · exact .of_kept (exec_ldFont_of_digit hdigit) (exec_ldFont_of_digit (s := s.withUnread b w s.out) hdigit) rfl
    · exact .of_kept (exec_ldFont_of_no_digit hdigit) (exec_ldFont_of_no_digit (s := s.withUnread b w s.out) hdigit) rfl
  | ldVxKey x =>
    cases hscan : s.lowestKeyDown with
    | none => exact .of_kept (exec_ldVxKey_of_none x hscan) (exec_ldVxKey_of_none (s := s.withUnread b w s.out) x hscan) rfl
    | some k => exact .of_kept (exec_ldVxKey_of_some x hscan) (exec_ldVxKey_of_some (s := s.withUnread b w s.out) x hscan) rfl
  | ldStVx x => exact ⟨_, s.reg x, s.out, rfl, rfl, fun _ => rfl, fun h => ⟨h, rfl⟩⟩
  | seImm | sneImm | seReg | sneReg =>
    exact .of_kept rfl (congrArg _ (State.skipIf_withUnread b w _ _ s)) (State.skipIf_withUnread s.st s.opcode s.out _ s)
  | skp | sknp =>
    exact .of_kept rfl (congrArg _ (skipOnKey_withUnread b w _ _ _ s)) (skipOnKey_withUnread s.st s.opcode s.out _ _ s)
  | drw => exact .of_checkedAccess rfl rfl rfl rfl
  | ldBcd | storeRegs =>
    exact .of_checkedAccess rfl rfl (State.writeBytes_withUnread b w _ _ _ s)
      (State.writeBytes_withUnread s.st s.opcode s.out _ _ s)
  | loadRegs =>
    exact .of_checkedAccess rfl rfl (State.loadRegList_withUnread b w _ _ s)
      (State.loadRegList_withUnread s.st s.opcode s.out _ s)
  | cls | jp | ldImm | addImm | ldReg | orReg | andReg | xorReg | addReg | subReg | shr | subnReg | shl | ldIndex | jpV0
  | rnd | ldVxDt | ldDtVx | addIndex => exact .of_kept rfl rfl rfl

/-- Settles O20: the two runs differ in the field given another value, and the report in the word it quotes. -/
theorem soundTimerAndOpcodeAreUnreadable : Obligations.SoundTimerAndOpcodeAreUnreadable := by
  intro i s t b w hexec
  refine ⟨?sound, ?opcode⟩
  case sound =>
    obtain ⟨u, b', o, hu, hrun, -, hkept⟩ := sameButUnread i b s.opcode s
    obtain rfl : u = t := Host.Outcome.next.inj (hu.symm.trans hexec)
    obtain ⟨hopcode, rfl⟩ := hkept rfl
    refine ⟨_, hrun, ?_⟩
    show { u with opcode := s.opcode } = u
    rw [hopcode]
  case opcode =>
    obtain ⟨u, b', o, hu, hrun, hkept, -⟩ := sameButUnread i s.st w s
    obtain rfl : u = t := Host.Outcome.next.inj (hu.symm.trans hexec)
    obtain rfl := hkept rfl
    exact ⟨_, hrun, rfl⟩

end Sys2Proof.Machine

/-! ## What every step keeps -/

namespace Sys2Proof.Machine

/-- What a step can do, with the fields the two invariants speak of (R180): leave them alone, reset, load an image, run one handler
or report the word. -/
inductive StepResult (s t : State) : Prop
  | kept (hpc : t.pc = s.pc) (hstack : t.stack = s.stack) (hmem : t.mem = s.mem) (hfont : t.font = s.font)
  | reset (f : Font) (ht : t = s.popEvent.afterReset f)
  | load (source : Option (List Byte)) (ht : t = s.popEvent.afterLoad source)
  | handler (i : Instr) (hfetch : s.AboutToFetch) (hexec : exec i s.handlerStart = .next t)
  | undecodable (hfetch : s.AboutToFetch) (ht : t = s.handlerStart.reportUndecodable)

theorem stepResult_of_cycle {s t : State} (hevent : s.nextEvent = .cycle) (hstep : step s = .next t) : StepResult s t := by
  cases cycleResult hevent with
  | stopped h | fetchFault h =>
    obtain rfl := Host.Outcome.next.inj (h.symm.trans hstep)
    exact .kept rfl rfl rfl rfl
  | handler i hfetch h => exact .handler i hfetch (h.symm.trans hstep)
  | undecodable hfetch h => exact .undecodable hfetch (Host.Outcome.next.inj (hstep.symm.trans h))

theorem stepResult {s t : State} (hstep : step s = .next t) : StepResult s t := by
  cases hevent : s.nextEvent with
  | cycle => exact stepResult_of_cycle hevent hstep
  | reset f => exact .reset f (step_next_eq hevent rfl hstep)
  | loadImage source => exact .load source (step_next_loadImage hevent hstep)
  | tick | keySet | dirtyClear | setRunState =>
    obtain rfl := step_next_eq hevent rfl hstep
    exact .kept rfl rfl rfl rfl

/-- Settles O12: every handler and every event is total, but for the LoadImage that is not admitted. -/
theorem everyStepAnswers : Obligations.EveryStepAnswers := by
  refine ⟨fun i s => ?exec, fun s hadmitted => ?step, fun s source hevent hclosed => ?late⟩
  case exec =>
    obtain ⟨t, hexec, -⟩ := exec_effect i s
    exact ⟨t, hexec⟩
  case step =>
    cases hevent : s.nextEvent with
    | cycle =>
      cases cycleResult hevent with
      | stopped hstep | fetchFault hstep | undecodable _ hstep => exact ⟨_, hstep⟩
      | handler i _ hstep =>
        obtain ⟨t, hexec, -⟩ := exec_effect i s.handlerStart
        exact ⟨t, hstep.trans hexec⟩
    | loadImage source => exact ⟨_, step_of_loadImage (hadmitted source hevent) hevent⟩
    | reset | tick | keySet | dirtyClear | setRunState => exact ⟨_, step_of_nextEvent hevent⟩
  case late =>
    rw [step_of_nextEvent hevent, deliver, State.popEvent_booting, hclosed]
    rfl

/-! ### Memory stays canonical -/

theorem State.writeBytes_memCanonical {s : State} (a : Nat) (bs : List Byte) (h : s.MemCanonical) :
    (State.writeBytes a bs s).MemCanonical := by
  have hfont : (State.writeBytes a bs s).font = s.font := by rw [State.writeBytes_eq]
  rw [State.MemCanonical, hfont]
  exact State.writeBytes_wf bs a s h

/-- The one kind of write that writes memory writes it byte by byte, each write keeping the form. -/
theorem Effect.memCanonical {i : Instr} {s t : State} (heffect : Effect s i t) (h : s.MemCanonical) : t.MemCanonical := by
  cases heffect with
  | store a bs => exact State.writeBytes_memCanonical a bs h
  | condition r =>
    rw [State.takeCondition_eq]
    exact h
  | registers | jump | ret | call | index | delay | sound | clear | draw => exact h

theorem State.afterLoad_memCanonical {s : State} (source : Option (List Byte)) (h : s.MemCanonical) :
    (s.afterLoad source).MemCanonical := by
  cases source with
  | none => exact h
  | some bytes =>
    by_cases hfits : bytes.length ≤ 3584
    · rw [State.afterLoad_of_fits s hfits]
      exact State.writeBytes_memCanonical 0x200 bytes h
    · rw [State.afterLoad_of_too_long s (Nat.lt_of_not_le hfits)]
      exact h

/-- Settles O28: a step that writes memory does so by writing bytes, or lists nothing after Reset. -/
theorem stepKeepsMemoryCanonical : Obligations.StepKeepsMemoryCanonical := by
  intro s t h hstep
  cases stepResult hstep with
  | kept _ _ hmem hfont =>
    rw [State.MemCanonical, hmem, hfont]
    exact h
  | reset f ht =>
    subst ht
    exact Memory.wf_nil f
  | load source ht =>
    subst ht
    exact State.afterLoad_memCanonical source h
  | handler i _ hexec =>
    have hstart : s.handlerStart.MemCanonical := h
    exact (effect_of_exec hexec).memCanonical hstart
  | undecodable _ ht =>
    subst ht
    exact h

/-! ### `pc` and the stack stay bounded -/

/-- Every target of the table is at most 0x10FE: a skip from 0x0FFE ends at 0x1002, a jump at 0x0FFF, an indexed jump at 0x0FFF plus
0xFF, and a return at a stack entry (R15). -/
theorem pcAfter_le {i : Instr} {a p : Word} {s : State} (h : pcAfter i a s p) (ha : a.toNat ≤ 0x0FFE)
    (hstack : ∀ k : Fin 16, s.stack[k].toNat ≤ 0x1000) : p.toNat ≤ 0x10FE := by
  have htwo : (a + 2#16).toNat ≤ 0x10FE := by bv_omega
  have hfour : (a + 4#16).toNat ≤ 0x10FE := by bv_omega
  cases i with
  | seImm | sneImm | seReg | sneReg =>
    have hp : p = _ := h
    rw [hp]
    split
    · assumption
    · assumption
  | skp | sknp =>
    obtain ⟨-, rfl | rfl⟩ := h
    · exact htwo
    · exact hfour
  | jp nnn =>
    have hp : p.toNat = nnn.toNat := h
    omega
  | jpV0 nnn =>
    have hp : p.toNat = nnn.toNat + (s.reg 0).toNat := h
    omega
  | call nnn =>
    rw [pcAfter_call_iff] at h
    split at h
    · omega
    · rw [h]
      exact htwo
  | ret =>
    obtain ⟨hempty, hpop⟩ := h
    by_cases hsp : s.sp.val = 0
    · rw [hempty hsp]
      exact htwo
    · have hentry := hpop ⟨s.sp.val - 1, by omega⟩ (Nat.succ_pred_eq_of_ne_zero hsp).symm
      rw [hentry]
      exact (hstack _).trans (by decide)
  | ldVxKey =>
    obtain ⟨hdown, hup⟩ := h
    by_cases hany : ∃ k, s.keyDown k = true
    · rw [hdown hany]
      exact htwo
    · rw [hup fun k => Bool.eq_false_iff.mpr fun hk => hany ⟨k, hk⟩]
      omega
  | cls | ldImm | addImm | ldReg | orReg | andReg | xorReg | addReg | subReg | shr | subnReg | shl | ldIndex | rnd | drw
  | ldVxDt | ldDtVx | ldStVx | addIndex | ldFont | ldBcd | storeRegs | loadRegs =>
    have hp : p = a + 2#16 := h
    rw [hp]
    exact htwo

/-- Only CALL writes the stack, and what it pushes is the advanced `pc` (R92). -/
theorem Effect.stack_le {i : Instr} {s t : State} (heffect : Effect s i t) (hpc : s.pc.toNat ≤ 0x1000)
    (hstack : ∀ k : Fin 16, s.stack[k].toNat ≤ 0x1000) (k : Fin 16) : t.stack[k].toNat ≤ 0x1000 := by
  cases heffect with
  | call nnn hi h =>
    rw [State.setPc_stack, State.push_stack]
    split
    · exact hpc
    · exact hstack k
  | store a bs =>
    rw [State.writeBytes_eq]
    exact hstack k
  | condition r =>
    rw [State.takeCondition_eq]
    exact hstack k
  | registers | jump | ret | index | delay | sound | clear | draw => exact hstack k

/-- Settles O29: a handler's start is at most 0x1000, so what it pushes is too and every target of the table is within the bound. -/
theorem stepKeepsPcBounded : Obligations.StepKeepsPcBounded := by
  intro s t h hstep
  obtain ⟨hpc, hstack⟩ := h
  have hstart (hfetch : s.AboutToFetch) : s.handlerStart.pc.toNat ≤ 0x1000 := by
    obtain ⟨-, -, hrange⟩ := hfetch
    show (s.pc + 2#16).toNat ≤ 0x1000
    bv_omega
  cases stepResult hstep with
  | kept hpcSame hstackSame =>
    rw [State.PcBounded, hpcSame, hstackSame]
    exact ⟨hpc, hstack⟩
  | reset f ht =>
    subst ht
    exact resetMeetsTheInvariants.2
  | load source ht =>
    rw [ht, State.afterLoad_eq]
    exact ⟨hpc, hstack⟩
  | handler i hfetch hexec =>
    have heffect := effect_of_exec hexec
    have haddr : (s.handlerStart.pc - 2#16).toNat ≤ 0x0FFE := by
      obtain ⟨-, -, hrange⟩ := hfetch
      rwa [show s.handlerStart.pc - 2#16 = s.pc from s.iaddr_handlerStart]
    exact ⟨pcAfter_le heffect.pc haddr hstack, heffect.stack_le (hstart hfetch) hstack⟩
  | undecodable hfetch ht =>
    subst ht
    exact ⟨(hstart hfetch).trans (by decide), hstack⟩

end Sys2Proof.Machine
end
